-- ==== Sys2Proof/Word.lean ====
section
/-! DEFINITION. The octet, and the small containers that follow the manual's own shape: three channels R, G, B;
four plotting-value groups; four patches. Twelve plotting values are four groups of three channels (00_scope 5.4),
twelve reading items are four patches of three channels (R2). -/

namespace Sys2Proof

/-- One octet of a frame (R152). -/
abbrev Octet := BitVec 8

/-- A channel, always in the order R, G, B (00_scope 5.4). -/
inductive Channel where
  | r | g | b
  deriving DecidableEq, Repr

/-- A group of plotting values, in the order BASE, SPEED, CONTRAST, TOP (00_scope 5.4). -/
inductive Group where
  | base | speed | contrast | top
  deriving DecidableEq, Repr

/-- A patch of the strip, in the order DMIN, LOW, HIGH, DMAX (00_scope 5.4). -/
inductive Patch where
  | dmin | low | high | dmax
  deriving DecidableEq, Repr

/-- One value for each channel. -/
structure Channels (α : Type) where
  r : α
  g : α
  b : α
  deriving DecidableEq, Repr

/-- One value for each plotting-value group. -/
structure Groups (α : Type) where
  base : α
  speed : α
  contrast : α
  top : α
  deriving DecidableEq, Repr

/-- One value for each patch. -/
structure Patches (α : Type) where
  dmin : α
  low : α
  high : α
  dmax : α
  deriving DecidableEq, Repr

/-- One value for each of the twelve plotting values, PV 0..11 group-major (00_scope 5.4). -/
abbrev PerPv (α : Type) := Groups (Channels α)

/-- One value for each of the twelve reading items, items 0..11 patch-major (R2). -/
abbrev PerItem (α : Type) := Patches (Channels α)

/-- The sign of a quantity: −1, 0 or +1 (00_scope 5.2). -/
inductive Sgn where
  | neg | zero | pos
  deriving DecidableEq, Repr

def Channel.number : Channel → Nat
  | .r => 0
  | .g => 1
  | .b => 2

def Group.number : Group → Nat
  | .base => 0
  | .speed => 1
  | .contrast => 2
  | .top => 3

def Patch.number : Patch → Nat
  | .dmin => 0
  | .low => 1
  | .high => 2
  | .dmax => 3

/-- The number of a plotting value, group-major (00_scope 5.4). -/
def pvNumber (g : Group) (c : Channel) : Nat := 3 * g.number + c.number

/-- The number of a reading item, patch-major (R2). -/
def itemNumber (p : Patch) (c : Channel) : Nat := 3 * p.number + c.number

namespace Channels
variable {α β : Type}

def get (x : Channels α) : Channel → α
  | .r => x.r
  | .g => x.g
  | .b => x.b

def tab (f : Channel → α) : Channels α := ⟨f .r, f .g, f .b⟩

def toList (x : Channels α) : List α := [x.r, x.g, x.b]

@[simp] theorem get_tab (f : Channel → α) (c : Channel) : (tab f).get c = f c := by cases c <;> rfl

end Channels

namespace Groups
variable {α β : Type}

def get (x : Groups α) : Group → α
  | .base => x.base
  | .speed => x.speed
  | .contrast => x.contrast
  | .top => x.top

def tab (f : Group → α) : Groups α := ⟨f .base, f .speed, f .contrast, f .top⟩

def toList (x : Groups α) : List α := [x.base, x.speed, x.contrast, x.top]

@[simp] theorem get_tab (f : Group → α) (g : Group) : (tab f).get g = f g := by cases g <;> rfl

end Groups

namespace Patches
variable {α β : Type}

def get (x : Patches α) : Patch → α
  | .dmin => x.dmin
  | .low => x.low
  | .high => x.high
  | .dmax => x.dmax

def tab (f : Patch → α) : Patches α := ⟨f .dmin, f .low, f .high, f .dmax⟩

def toList (x : Patches α) : List α := [x.dmin, x.low, x.high, x.dmax]

@[simp] theorem get_tab (f : Patch → α) (p : Patch) : (tab f).get p = f p := by cases p <;> rfl

end Patches

namespace PerPv
variable {α : Type}

/-- The value of one plotting value. -/
def pv (x : PerPv α) (g : Group) (c : Channel) : α := (x.get g).get c

/-- Twelve values made one by one. -/
def tab (f : Group → Channel → α) : PerPv α := Groups.tab fun g => Channels.tab (f g)

/-- The twelve values in PV order 0..11. -/
def list (x : PerPv α) : List α :=
  x.base.toList ++ x.speed.toList ++ x.contrast.toList ++ x.top.toList

@[simp] theorem pv_tab (f : Group → Channel → α) (g : Group) (c : Channel) : (tab f).pv g c = f g c := by
  cases g <;> cases c <;> rfl

end PerPv

namespace PerItem
variable {α : Type}

/-- The value of one reading item. -/
def item (x : PerItem α) (p : Patch) (c : Channel) : α := (x.get p).get c

/-- Twelve values made one by one. -/
def tab (f : Patch → Channel → α) : PerItem α := Patches.tab fun p => Channels.tab (f p)

/-- The twelve values in item order 0..11. -/
def list (x : PerItem α) : List α :=
  x.dmin.toList ++ x.low.toList ++ x.high.toList ++ x.dmax.toList

@[simp] theorem item_tab (f : Patch → Channel → α) (p : Patch) (c : Channel) : (tab f).item p c = f p c := by
  cases p <;> cases c <;> rfl

end PerItem

def allChannels : List Channel := [.r, .g, .b]

def allGroups : List Group := [.base, .speed, .contrast, .top]

/-- The twelve plotting values in ascending PV number. -/
def allPvs : List (Group × Channel) :=
  allGroups.flatMap fun g => allChannels.map fun c => (g, c)

end Sys2Proof
end

