-- ==== Sys2Proof/Config.lean ====
section
/-! DEFINITION. Config: what the part fixes once and for all, as the manual states it (R153, R158, R168, R170).
The manual leaves no result value open, so there is no free value here. -/

namespace Sys2Proof.Config

/-- Stores 0..1023 (R38, R168). -/
def stores : Nat := 1024
/-- Active lots per process (R17, R168). -/
def lotsPerProcess : Nat := 16
/-- Condition pattern entries (R94, R168). -/
def patternEntries : Nat := 16
/-- Entries of the Notice Queue (R112, R168). -/
def noticeEntries : Nat := 64
/-- The count at which an insertion sets HIGH (R119). -/
def noticeHigh : Nat := 48
/-- Queue places of a port (R158, R168). -/
def queuePlaces : Nat := 4
/-- Refusals a refusal list holds (R158). -/
def refusalPlaces : Nat := 4
/-- Content octets a receiver keeps (R153). -/
def contentMax : Nat := 640
/-- Consecutive low periods of LDI at which a link reset is taken (R161). -/
def linkResetLows : Nat := 32
/-- Stores of one sweep slice (R132). -/
def sliceStores : Nat := 8
/-- Largest value of a 16-bit quantity, and of a saturating counter (R48, R162, R171). -/
def max16 : Nat := 65535
/-- Largest normalized density, in mD (R8). -/
def maxDensity : Nat := 4000
/-- Largest magnitude of a deviation, in mD (R12). -/
def maxDeviation : Nat := 2047
/-- Largest late window, in days (R127). -/
def maxLateWindow : Nat := 14
/-- Largest occurrences and missed count (R111, R39). -/
def max8 : Nat := 255
/-- Largest run count (R78). -/
def maxRun : Nat := 15

/-- Part code of Identify (R168). -/
def partCode : Nat := 0x7140
/-- Revision of Identify (R168). -/
def partRevision : Nat := 0x02

/-- START, END and the escape octet (R153). -/
def startOctet : Octet := 0xD3
def endOctet : Octet := 0xD5
def escapeOctet : Octet := 0xD4
/-- The bit an escape inverts (R153). -/
def escapeMask : Octet := 0x40

end Sys2Proof.Config
end

