-- ==== Sys2Proof/Syntax.lean ====
section
/-! DEFINITION. Syntax: the commands of the part, one constructor for each row of spec/opcode_table.json, in the
table's order. A command is one step of the part (spec/95). A step of the engine acts on the operation in flight,
whose request the engine holds; a step of an owner block acts on the request at the head of the named port's queue,
whose body holds the values. So these commands carry a port at most (notes/assumptions/1.md). -/

namespace Sys2Proof

/-- The three master ports (R151). -/
inductive Port where
  | a | b | c
  deriving DecidableEq, Repr

/-- The four rights of a port, as its straps give them: high is true (R151, R157). R151 opens with five strap inputs
for each port; its table and its next sentence have four, and the model follows these (DEDUCED,
notes/assumptions/18.md). -/
structure Rights where
  post : Bool
  edit : Bool
  ack : Bool
  cal : Bool
  deriving DecidableEq, Repr

/-- What abandons a partial frame (R152, R153). -/
inductive AbandonCause where
  /-- START inside a frame: the partial frame is a drop and a new frame begins. -/
  | start
  /-- The escape octet, then START: the same. -/
  | escapeThenStart
  /-- The escape octet, then END or an octet other than 0x93, 0x94 and 0x95. -/
  | badEscape
  /-- An octet whose stop period is low. -/
  | octetInError
  deriving DecidableEq, Repr

/-- How far a step with inner points runs: to its end, or to its next inner point, at which the spec lets owner
blocks take requests (R114, R133; notes/assumptions/4.md). -/
inductive Extent where
  | whole
  | part
  deriving DecidableEq, Repr

/-- The commands. -/
inductive Instr where
  | deviceReset
  | resetRelease (a b c : Rights)
  | linkReset (p : Port)
  | frameAbandoned (p : Port) (cause : AbandonCause)
  | frameReceived (p : Port) (octets : List Octet)
  | abortFrame (p : Port)
  | replySent (p : Port)
  | postReading
  | classify
  | evaluationCommit (x : Extent)
  | enrolChart
  | enrolChartCommit
  | withdrawChart
  | withdrawChartCommit
  | suspendChart
  | resumeChart
  | restartChart
  | setHold
  | setInstrument
  | readChart
  | restoreChart
  | restoreChartCommit
  | stageLot (p : Port)
  | promoteLot (p : Port)
  | retireLot (p : Port)
  | readLot (p : Port)
  | listLots (p : Port)
  | stageProfile (p : Port)
  | promoteProfile (p : Port)
  | readProfile (p : Port)
  | writePattern (p : Port)
  | readPattern (p : Port)
  | listNotices (p : Port)
  | acknowledgeNotice (p : Port)
  | closeDay (p : Port)
  | setCalendar (p : Port)
  | setLateWindow (p : Port)
  | readCalendar (p : Port)
  | setWindow (p : Port)
  | setPortOptions (p : Port)
  | readFlags (p : Port)
  | clearFlags (p : Port)
  | setFlagEnables (p : Port)
  | identify (p : Port)
  | sweepSlice (x : Extent)
  | frameStart (p : Port)
  | octetInError (p : Port)
  | receiverResumes (p : Port)
  deriving DecidableEq, Repr

end Sys2Proof
end

