-- ==== Sys2Proof/WellFormed.lean ====
section
/-! DEFINITION. WellFormed: FRAME_RECEIVED carries the line octets of one frame after its START and up to its END,
so no END stands among them unescaped (R153). An END after an escape octet abandons the frame, so it stands among
them neither. Every other command is well-formed as it is: its operands are closed types. -/

namespace Sys2Proof

/-- No octet of the list is END (R153). -/
def noEnd (octets : List Octet) : Bool := octets.all (· != Config.endOctet)

/-- The form of a command. -/
def Instr.wellFormed : Instr → Bool
  | .frameReceived _ octets => noEnd octets
  | .deviceReset => true
  | .resetRelease _ _ _ => true
  | .linkReset _ => true
  | .frameAbandoned _ _ => true
  | .abortFrame _ => true
  | .replySent _ => true
  | .postReading => true
  | .classify => true
  | .evaluationCommit _ => true
  | .enrolChart => true
  | .enrolChartCommit => true
  | .withdrawChart => true
  | .withdrawChartCommit => true
  | .suspendChart => true
  | .resumeChart => true
  | .restartChart => true
  | .setHold => true
  | .setInstrument => true
  | .readChart => true
  | .restoreChart => true
  | .restoreChartCommit => true
  | .stageLot _ => true
  | .promoteLot _ => true
  | .retireLot _ => true
  | .readLot _ => true
  | .listLots _ => true
  | .stageProfile _ => true
  | .promoteProfile _ => true
  | .readProfile _ => true
  | .writePattern _ => true
  | .readPattern _ => true
  | .listNotices _ => true
  | .acknowledgeNotice _ => true
  | .closeDay _ => true
  | .setCalendar _ => true
  | .setLateWindow _ => true
  | .readCalendar _ => true
  | .setWindow _ => true
  | .setPortOptions _ => true
  | .readFlags _ => true
  | .clearFlags _ => true
  | .setFlagEnables _ => true
  | .identify _ => true
  | .sweepSlice _ => true
  | .frameStart _ => true
  | .octetInError _ => true
  | .receiverResumes _ => true

end Sys2Proof
end

