-- ==== Sys2Proof/Decode.lean ====
section
/-! DEFINITION. Decode: the command that a word of spec/opcode_table.json spells. The hardware is a block and no row
of its table gives bits (every row's "fields" is empty), so no word spells a command. The frames on the port lines,
which do carry octets, are decoded by the machine itself (Machine/Receive.lean). -/

namespace Sys2Proof

/-- No row of the table gives bits: every word is refused. -/
def decodeTableWord (nbits w : Nat) : Option Instr :=
  match nbits, w with
  | _, _ => none

end Sys2Proof
end

