-- ==== Sys2Proof/Machine/State.lean ====
section
/-! DEFINITION. State: every piece of state the spec gives the part, as plain data, the values it takes at device
reset, and the reasons a step can stop. Values are Nat and Int as the manual speaks of values (00_scope 5.6); sets of
yes/no items that the ports read and write as a word are bit vectors; octets are bit vectors. -/

namespace Sys2Proof.Machine

/-! ## Vocabulary -/

/-- F, the film process (number 0), and P, the paper process (number 1) (00_scope 5.4). -/
inductive Process where
  | f | p
  deriving DecidableEq, Repr

/-- Body byte order of a port (R164). -/
inductive ByteOrder where
  | big | little
  deriving DecidableEq, Repr

/-- Severities, lowest first (R94). -/
inductive Severity where
  | info | watch | adjust | stop
  deriving DecidableEq, Repr

/-- The request codes of R172. -/
inductive RequestCode where
  | postReading | enrolChart | withdrawChart | suspendChart | resumeChart | restartChart | setHold | setInstrument
  | readChart | restoreChart
  | stageLot | promoteLot | retireLot | readLot | listLots | stageProfile | promoteProfile | readProfile
  | writePattern | readPattern
  | listNotices | acknowledgeNotice
  | closeDay | setCalendar | setLateWindow | readCalendar
  | setWindow | setPortOptions | readFlags | clearFlags | setFlagEnables | identify
  deriving DecidableEq, Repr

/-- The status values of R173. -/
inductive Status where
  | ok | clamped | started | parked
  | busy | aborted | badCode | badLength | badValue | noRight
  | outOfWindow | notEnrolled | exists_ | suspended | futureDay | notFound | revisionMismatch | tableFull | inUse
  | inconsistent | noStaging | changed | tooLate | staleDay
  | sweepActive | calendarLocked | calendarEnd
  deriving DecidableEq, Repr

/-! ## Reference data (chapter 2) -/

/-- What a lot record says of its strips (R16). -/
structure LotValues where
  densities : PerItem Nat
  corrections : PerPv Int
  lastUsable : Option Nat
  deriving DecidableEq, Repr

/-- An active lot record; its process is that of the table that holds it (R16, R17). -/
structure LotRecord where
  number : Nat
  revision : Nat
  values : LotValues
  storeCount : Nat
  deriving DecidableEq, Repr

/-- A staging lot record (R16, R22). -/
structure StagedLot where
  process : Process
  number : Nat
  values : LotValues
  deriving DecidableEq, Repr

/-- The five limits of one group (R20). -/
structure Limits where
  cl : Nat
  al : Nat
  sl : Nat
  dl : Nat
  rb : Nat
  deriving DecidableEq, Repr

/-- What a profile record says (R20). -/
structure ProfileValues where
  limits : Groups Limits
  weight : Nat
  runLength : Nat
  overdueLimit : Nat
  plotted : Groups Bool
  deriving DecidableEq, Repr

/-- The active profile of a process (R20, R21). -/
structure Profile where
  values : ProfileValues
  revision : Nat
  deriving DecidableEq, Repr

/-- A staging profile record carries its own process (R22). -/
structure StagedProfile where
  process : Process
  values : ProfileValues
  deriving DecidableEq, Repr

/-- What the Reference Table holds for one process: lots in ascending lot number, and the profile (R17, R20). -/
structure ProcTable where
  lots : List LotRecord
  profile : Profile
  deriving DecidableEq, Repr

/-- The Reference Table. -/
structure RefTable where
  film : ProcTable
  paper : ProcTable
  deriving DecidableEq, Repr

/-! ## Stores and charts (chapter 3) -/

/-- Resolution of a densitometer (R3). -/
inductive Resolution where
  | bits8 | bits10 | bits12
  deriving DecidableEq, Repr

/-- Instrument settings of a store: an offset is sign × magnitude, −31..31, in units of 2 mD (R3). -/
structure Instrument where
  resolution : Resolution
  offsets : Channels Int
  deriving DecidableEq, Repr

/-- State of a chart (R40). -/
inductive ChartState where
  | off | active | overdue | suspended
  deriving DecidableEq, Repr

/-- A chart's state of one plotting value (R44). E is in sixteenths of a mD. -/
structure PvState where
  lastDeviation : Option Int
  ewma : Int
  runSign : Sgn
  runCount : Nat
  deriving DecidableEq, Repr

/-- The result of the latest evaluated reading (R46). -/
structure LastResult where
  day : Nat
  code : Nat
  severity : Severity
  matched : BitVec 16
  deviations : List (Nat × Int)
  deriving DecidableEq, Repr

/-- The classes of notices (R110). -/
inductive NoticeClass where
  | condition | attendance | held
  deriving DecidableEq, Repr

/-- Owed marks, one for each notice class (R47). -/
structure Owed where
  condition : Bool
  attendance : Bool
  held : Bool
  deriving DecidableEq, Repr

/-- A parked reading (R50). -/
structure Parked where
  lot : Nat
  day : Nat
  codes : PerItem Nat
  deriving DecidableEq, Repr

/-- A chart record (R39). -/
structure Chart where
  state : ChartState
  seedPending : Bool
  currentLot : Nat
  lotRevision : Nat
  enrolDay : Nat
  lastDay : Option Nat
  missed : Nat
  pvs : PerPv PvState
  hold : BitVec 12
  latched : BitVec 16
  lastResult : Option LastResult
  owed : Owed
  parked : Option Parked
  evaluatedCount : Nat
  staleCount : Nat
  expiredCount : Nat
  deriving DecidableEq, Repr

/-- A store entry (R38). -/
structure StoreEntry where
  instrument : Instrument
  film : Chart
  paper : Chart
  deriving DecidableEq, Repr

/-- The Store Table: (store, entry) in ascending store number; a store that is not listed holds the reset entry
(R38; notes/assumptions/11.md). -/
abbrev StoreTable := List (Nat × StoreEntry)

/-! ## Condition patterns (chapter 5) -/

/-- Symptom of a plotting value (R80, R81). -/
inductive Symptom where
  | none | up | down | mixed
  deriving DecidableEq, Repr

/-- A spread item (R73). -/
inductive Spread where
  | absent | present
  deriving DecidableEq, Repr

/-- Expected value of a plotting-value item (R94). -/
inductive Expect where
  | none | up | down | any
  deriving DecidableEq, Repr

/-- Persistence mode (R94, R103). -/
inductive Persistence where
  | plain | confirmed | onset | cleared
  deriving DecidableEq, Repr

/-- A condition pattern entry (R94). -/
structure PatternEntry where
  enabled : Bool
  care : BitVec 16
  expectPv : PerPv Expect
  expectSpread : Groups Spread
  mode : Persistence
  code : Nat
  severity : Severity
  generation : Nat
  deriving DecidableEq, Repr

/-! ## Notices (chapter 6) -/

/-- The kinds of notices (R110). -/
inductive NoticeKind where
  | drift | overdue | resumed | unknownLot
  deriving DecidableEq, Repr

/-- An offer to the Notice Queue (R110): `missed` is carried by ATTENDANCE offers and `parkedLot` by HELD offers. -/
structure Offer where
  store : Nat
  process : Process
  cls : NoticeClass
  kind : NoticeKind
  day : Nat
  severity : Severity
  code : Nat
  matched : BitVec 16
  deviations : List (Nat × Int)
  missed : Option Nat
  parkedLot : Option Nat
  deriving DecidableEq, Repr

/-- A notice entry (R111). -/
structure Notice where
  id : Nat
  cls : NoticeClass
  kind : NoticeKind
  store : Nat
  process : Process
  firstDay : Nat
  lastDay : Nat
  occurrences : Nat
  severity : Severity
  peakCode : Nat
  latestCode : Nat
  matched : BitVec 16
  deviations : List (Nat × Int)
  missed : Option Nat
  parkedLot : Option Nat
  deriving DecidableEq, Repr

/-- The Notice Queue: entries in insertion order, head first, and the next-id counter (R112, R113). -/
structure NoticeQueue where
  entries : List Notice
  nextId : Nat
  deriving DecidableEq, Repr

/-! ## Calendar (chapter 7) -/

/-- Whether a day-close sweep is running (R127). -/
inductive SweepState where
  | idle | sweeping
  deriving DecidableEq, Repr

/-- The Calendar Unit (R127). -/
structure Calendar where
  day : Nat
  lateWindow : Nat
  sweep : SweepState
  closingDay : Nat
  nextStore : Nat
  enrolment : Nat
  deriving DecidableEq, Repr

/-! ## Replies (chapters 9 and 10) -/

/-- A field of a reply body: one octet, two octets unsigned, or two octets signed (R159, R171). -/
inductive Field where
  | o8 (n : Nat)
  | o16 (n : Nat)
  | o16s (i : Int)
  deriving DecidableEq, Repr

/-- A reply before it is laid out: its status and what follows it (R159). -/
structure Reply where
  status : Status
  fields : List Field
  deriving DecidableEq, Repr

/-! ## Evaluation engine (chapters 4, 7 and 8) -/

/-- A request in a queue place: the tag of its header, its code and its body as carried (R159, R170). -/
structure Request where
  tag : BitVec 2
  code : RequestCode
  body : List Octet
  deriving DecidableEq, Repr

/-- The port and request an engine operation serves, the byte order its body is read in (held at the grant, R159),
and whether a link reset has made its reply one to discard (R150, R161). -/
structure Caller where
  port : Port
  request : Request
  order : ByteOrder
  discardReply : Bool
  deriving DecidableEq, Repr

/-- A reading whose process is F or P (R1). -/
structure Reading where
  store : Nat
  process : Process
  lot : Nat
  day : Nat
  codes : PerItem Nat
  deriving DecidableEq, Repr

/-- Limit class of a charted plotting value; the mark says whether the deviation is positive (R72). -/
inductive LimitClass where
  | within
  | warn (positive : Bool)
  | action (positive : Bool)
  deriving DecidableEq, Repr

/-- The working values of one plotting value (R71 to R80). For a held one the class is `within`, there is no drift
and no RUN, and E and run are what the chart is to keep (R79). -/
structure PvWork where
  charted : Bool
  deviation : Int
  limitClass : LimitClass
  ewma : Int
  drift : Sgn
  runSign : Sgn
  runCount : Nat
  run : Bool
  symptom : Symptom
  deriving DecidableEq, Repr

/-- The snapshots and working values of an evaluation (R15, R67, R70, R71 to R81). -/
structure Evaluation where
  reading : Reading
  calendarDay : Nat
  lateWindow : Nat
  lot : LotRecord
  profile : Profile
  clampedMask : BitVec 12
  densities : PerItem Nat
  measured : PerPv Int
  aims : PerPv Int
  pvs : PerPv PvWork
  spread : Groups Spread
  seeded : Bool
  lotChanged : Bool
  deriving DecidableEq, Repr

/-- The result of classification (R82). -/
structure Result where
  code : Nat
  severity : Severity
  matched : BitVec 16
  deviations : List (Nat × Int)
  rawMatch : BitVec 16
  deriving DecidableEq, Repr

/-- An evaluation that has passed ACCEPT (R63): COMPUTE is complete; CLASSIFY is complete; the commit has written the
chart and has these offers still to make, with the notice id and the OWED indicator of the reply so far; the commit
has filled the parked slot, and the HELD offer comes (R84); or nothing is left but to end with this reply. -/
inductive EvalStage where
  | computed (ev : Evaluation)
  | classified (ev : Evaluation) (res : Result)
  | offering (ev : Evaluation) (res : Result) (offers : List Offer) (noticeId : Nat) (owed : Bool)
  | parking (rd : Reading)
  | ending (rep : Reply)
  deriving DecidableEq, Repr

/-- Where a sweep slice stands in the visit of a chart (R132): at the chart; in step 1 with the lot question answered,
before the calendar question (R134); in the evaluation of step 1; before step 2; in step 3 with the limit question
answered, before an OVERDUE offer of this missed count (R136); or before the re-issue of one class in step 4. -/
inductive VisitStage where
  | arrive
  | snapped (rd : Reading) (lot : LotRecord) (profile : Profile)
  | retry (st : EvalStage)
  | miss
  | overdue (missed : Nat)
  | owed (cls : NoticeClass)
  deriving DecidableEq, Repr

/-- The operation in flight in the Evaluation Engine (R149). -/
inductive Operation where
  /-- Granted; neither ACCEPT nor the grant checks have been made. -/
  | granted (c : Caller)
  /-- A Post Reading past ACCEPT. -/
  | evaluating (c : Caller) (st : EvalStage)
  /-- An Enrol Chart that has passed its grant checks (R54). -/
  | enrolling (c : Caller) (store : Nat) (process : Process) (lot : Nat)
  /-- A Withdraw Chart that has passed its grant checks (R55). -/
  | withdrawing (c : Caller) (store : Nat) (process : Process)
  /-- A Restore Chart that has passed its grant checks (R61). -/
  | restoring (c : Caller) (store : Nat) (process : Process) (chart : Chart)
  /-- A sweep slice at chart `index` (0..15) of its eight stores, or past the last of them (16), before its end
  (R132). -/
  | slice (index : Nat) (st : VisitStage)
  deriving DecidableEq, Repr

/-- Requesters of the arbiter, in rotation order (R144). -/
inductive Requester where
  | port (p : Port)
  | sweep
  deriving DecidableEq, Repr

/-- The Engine Arbiter (R144). -/
structure Arbiter where
  pointer : Requester
  grant : Option Requester
  burst : Nat
  deriving DecidableEq, Repr

/-! ## Port Interface (chapter 9) -/

/-- The content of the frame being received: its octets after unescaping (at most 640 are kept), how many there
were, and whether the octet before was the escape octet (R153). -/
structure Content where
  kept : List Octet
  count : Nat
  escaped : Bool
  deriving DecidableEq, Repr

/-- The receiver of a port (R152, R153, R161). -/
inductive Receiver where
  /-- Outside a frame, looking for START. -/
  | looking
  /-- Inside a frame. -/
  | inFrame (content : Content)
  /-- Waiting for LDI to be high for one period; the mark says that this low has brought a link reset (R161). -/
  | waitHigh (linkResetTaken : Bool)
  deriving DecidableEq, Repr

/-- A reply frame before it is laid out: tag, code octet and body (R159). -/
structure ReplyFrame where
  tag : BitVec 2
  code : Octet
  body : List Octet
  deriving DecidableEq, Repr

/-- How far the request of a queue place has come (R158). -/
inductive Progress where
  | waiting
  | inFlight
  | answered (reply : ReplyFrame)
  deriving DecidableEq, Repr

/-- A taken queue place (R158). -/
structure Place where
  request : Request
  progress : Progress
  deriving DecidableEq, Repr

/-- The list the frame being sent comes from (R158). -/
inductive FrameSource where
  | refusal | reply
  deriving DecidableEq, Repr

/-- The frame being sent on LDO, with its octets on the line (R158). -/
structure Sending where
  source : FrameSource
  octets : List Octet
  deriving DecidableEq, Repr

/-- A posting window (R163). -/
structure Window where
  base : Nat
  size : Nat
  deriving DecidableEq, Repr

/-- The six event flags, or their six enables (R165). -/
structure FlagSet where
  notice : Bool
  high : Bool
  owed : Bool
  sweep : Bool
  table : Bool
  link : Bool
  deriving DecidableEq, Repr

/-- One Port Interface (chapter 9; the table of R169). `places` holds the taken places in acceptance order. -/
structure PortState where
  rights : Rights
  receiver : Receiver
  places : List Place
  refusals : List ReplyFrame
  sending : Option Sending
  stagingLot : Option StagedLot
  stagingProfile : Option StagedProfile
  byteOrder : ByteOrder
  quota : Nat
  window : Window
  flags : FlagSet
  enables : FlagSet
  correctedHeaders : Nat
  drops : Nat
  deriving DecidableEq, Repr

/-- The three Port Interfaces. -/
structure Ports where
  a : PortState
  b : PortState
  c : PortState
  deriving DecidableEq, Repr

/-! ## The machine -/

/-- The state of the part, and the queue of commands that are waiting, first in, first out. -/
structure State where
  pending : List Instr
  resetHeld : Bool
  ports : Ports
  arbiter : Arbiter
  engine : Option Operation
  refs : RefTable
  stores : StoreTable
  patterns : Vector PatternEntry 16
  notices : NoticeQueue
  calendar : Calendar
  deriving DecidableEq, Repr

/-- Nothing in the spec stops the part: a bad frame is dropped or refused and a bad request is answered with a
status (R156, R173). No step raises a fault. -/
inductive Fault : Type
  deriving DecidableEq, Repr

/-- Reasons to refuse a command. -/
inductive Refusal where
  /-- A command that has no meaning yet. Raised by the arm of `exec` that names it, by no meaning. Safe. -/
  | notModelled (mnemonic : String)
  deriving DecidableEq, Repr

/-! ## Values at device reset -/

/-- E 0, no run, no last deviation (R39). -/
def PvState.off : PvState := ⟨none, 0, .zero, 0⟩

/-- The OFF values of a chart record (R39). -/
def Chart.off : Chart where
  state := .off
  seedPending := false
  currentLot := 0
  lotRevision := 0
  enrolDay := 0
  lastDay := none
  missed := 0
  pvs := PerPv.tab fun _ _ => PvState.off
  hold := 0
  latched := 0
  lastResult := none
  owed := ⟨false, false, false⟩
  parked := none
  evaluatedCount := 0
  staleCount := 0
  expiredCount := 0

/-- Resolution 12 and offset +0 on all channels (R3). -/
def Instrument.reset : Instrument := ⟨.bits12, Channels.tab fun _ => 0⟩

/-- A store entry after device reset (R38). -/
def StoreEntry.reset : StoreEntry := ⟨Instrument.reset, Chart.off, Chart.off⟩

/-- The limits of both default profiles (R21). -/
def Limits.default : Groups Limits where
  base := ⟨10, 20, 12, 6, 4⟩
  speed := ⟨15, 30, 15, 10, 6⟩
  contrast := ⟨20, 40, 20, 12, 8⟩
  top := ⟨30, 60, 30, 20, 12⟩

/-- A default profile: w 4, RL 5, overdue limit 2, revision 0 (R21). -/
def Profile.default (plotted : Groups Bool) : Profile := ⟨⟨Limits.default, 4, 5, 2, plotted⟩, 0⟩

/-- The Reference Table after device reset: no lots, the default profiles (R17, R21). -/
def RefTable.reset : RefTable where
  film := ⟨[], Profile.default ⟨true, true, true, false⟩⟩
  paper := ⟨[], Profile.default ⟨true, true, true, true⟩⟩

/-- The zero value of a pattern entry (R94). -/
def PatternEntry.zero : PatternEntry where
  enabled := false
  care := 0
  expectPv := PerPv.tab fun _ _ => .none
  expectSpread := Groups.tab fun _ => .absent
  mode := .plain
  code := 0
  severity := .info
  generation := 0

def FlagSet.none : FlagSet := ⟨false, false, false, false, false, false⟩

/-- No right at all: what a port holds before its straps are first latched (DESIGN CHOICE, notes/assumptions/3.md). -/
def Rights.none : Rights := ⟨false, false, false, false⟩

/-- A port after device reset (R169). -/
def PortState.reset : PortState where
  rights := Rights.none
  receiver := .looking
  places := []
  refusals := []
  sending := none
  stagingLot := none
  stagingProfile := none
  byteOrder := .big
  quota := 2
  window := ⟨0, 1024⟩
  flags := FlagSet.none
  enables := FlagSet.none
  correctedHeaders := 0
  drops := 0

/-- The part at device reset, RESETN still low (power-up; R169): every item at its device-reset value. The release
that follows is the command RESET_RELEASE (notes/assumptions/3.md). -/
def State.reset : State where
  pending := []
  resetHeld := true
  ports := ⟨PortState.reset, PortState.reset, PortState.reset⟩
  arbiter := ⟨.port .a, none, 0⟩
  engine := none
  refs := RefTable.reset
  stores := []
  patterns := Vector.replicate 16 PatternEntry.zero
  notices := ⟨[], 1⟩
  calendar := ⟨0, 3, .idle, 0, 0, 0⟩

end Sys2Proof.Machine
end

