-- ==== Sys2Proof/Machine/Operands.lean ====
section
/-! DEFINITION. Operands: the octet forms in which requests, replies and frames cross the ports (chapter 10), with
the header code of R154, the check sums of R155 and the escapes of R153. -/

namespace Sys2Proof.Machine

/-! ## Numbers of the enumerations (R171 to R176) -/

def portNumber : Port → Nat
  | .a => 0
  | .b => 1
  | .c => 2

def portOfNumber : Nat → Option Port
  | 0 => some .a
  | 1 => some .b
  | 2 => some .c
  | _ => none

def processNumber : Process → Nat
  | .f => 0
  | .p => 1

/-- Process F is 0 and process P is 1; no other value names a process (R1). -/
def processOfNumber : Nat → Option Process
  | 0 => some .f
  | 1 => some .p
  | _ => none

def byteOrderNumber : ByteOrder → Nat
  | .big => 0
  | .little => 1

def byteOrderOfNumber : Nat → Option ByteOrder
  | 0 => some .big
  | 1 => some .little
  | _ => none

def severityNumber : Severity → Nat
  | .info => 0
  | .watch => 1
  | .adjust => 2
  | .stop => 3

def severityOfNumber : Nat → Option Severity
  | 0 => some .info
  | 1 => some .watch
  | 2 => some .adjust
  | 3 => some .stop
  | _ => none

def chartStateNumber : ChartState → Nat
  | .off => 0
  | .active => 1
  | .overdue => 2
  | .suspended => 3

def chartStateOfNumber : Nat → Option ChartState
  | 0 => some .off
  | 1 => some .active
  | 2 => some .overdue
  | 3 => some .suspended
  | _ => none

def resolutionNumber : Resolution → Nat
  | .bits8 => 8
  | .bits10 => 10
  | .bits12 => 12

def resolutionOfNumber : Nat → Option Resolution
  | 8 => some .bits8
  | 10 => some .bits10
  | 12 => some .bits12
  | _ => none

/-- 0x00 for 0, 0x01 for +1, 0xFF for −1 (R171). -/
def signOctet : Sgn → Nat
  | .zero => 0x00
  | .pos => 0x01
  | .neg => 0xFF

def signOfOctet : Nat → Option Sgn
  | 0x00 => some .zero
  | 0x01 => some .pos
  | 0xFF => some .neg
  | _ => none

def symptomNumber : Symptom → Nat
  | .none => 0
  | .up => 1
  | .down => 2
  | .mixed => 3

def spreadNumber : Spread → Nat
  | .absent => 0
  | .present => 1

def spreadOfNumber : Nat → Option Spread
  | 0 => some .absent
  | 1 => some .present
  | _ => none

def expectNumber : Expect → Nat
  | .none => 0
  | .up => 1
  | .down => 2
  | .any => 3

def expectOfNumber : Nat → Option Expect
  | 0 => some .none
  | 1 => some .up
  | 2 => some .down
  | 3 => some .any
  | _ => none

def persistenceNumber : Persistence → Nat
  | .plain => 0
  | .confirmed => 1
  | .onset => 2
  | .cleared => 3

def persistenceOfNumber : Nat → Option Persistence
  | 0 => some .plain
  | 1 => some .confirmed
  | 2 => some .onset
  | 3 => some .cleared
  | _ => none

def noticeClassNumber : NoticeClass → Nat
  | .condition => 0
  | .attendance => 1
  | .held => 2

def noticeKindNumber : NoticeKind → Nat
  | .drift => 0
  | .overdue => 1
  | .resumed => 2
  | .unknownLot => 3

def sweepStateNumber : SweepState → Nat
  | .idle => 0
  | .sweeping => 1

/-- The status octet (R173). -/
def statusOctet : Status → Nat
  | .ok => 0x00
  | .clamped => 0x01
  | .started => 0x02
  | .parked => 0x03
  | .busy => 0x10
  | .aborted => 0x11
  | .badCode => 0x12
  | .badLength => 0x13
  | .badValue => 0x14
  | .noRight => 0x15
  | .outOfWindow => 0x20
  | .notEnrolled => 0x21
  | .exists_ => 0x22
  | .suspended => 0x23
  | .futureDay => 0x24
  | .notFound => 0x25
  | .revisionMismatch => 0x26
  | .tableFull => 0x27
  | .inUse => 0x28
  | .inconsistent => 0x29
  | .noStaging => 0x2A
  | .changed => 0x2B
  | .tooLate => 0x2C
  | .staleDay => 0x2D
  | .sweepActive => 0x30
  | .calendarLocked => 0x31
  | .calendarEnd => 0x32

/-! ## Request codes, rights and lengths (R142, R157, R172) -/

/-- The code octet of a request (R172). -/
def codeOctet : RequestCode → Octet
  | .postReading => 0x01
  | .enrolChart => 0x02
  | .withdrawChart => 0x03
  | .suspendChart => 0x04
  | .resumeChart => 0x05
  | .restartChart => 0x06
  | .setHold => 0x07
  | .setInstrument => 0x08
  | .readChart => 0x09
  | .restoreChart => 0x0A
  | .stageLot => 0x10
  | .promoteLot => 0x11
  | .retireLot => 0x12
  | .readLot => 0x13
  | .listLots => 0x14
  | .stageProfile => 0x15
  | .promoteProfile => 0x16
  | .readProfile => 0x17
  | .writePattern => 0x20
  | .readPattern => 0x21
  | .listNotices => 0x28
  | .acknowledgeNotice => 0x29
  | .closeDay => 0x30
  | .setCalendar => 0x31
  | .setLateWindow => 0x32
  | .readCalendar => 0x33
  | .setWindow => 0x38
  | .setPortOptions => 0x39
  | .readFlags => 0x3A
  | .clearFlags => 0x3B
  | .setFlagEnables => 0x3C
  | .identify => 0x3D

/-- The request codes of the table of R172, in its order. -/
def allCodes : List RequestCode :=
  [.postReading, .enrolChart, .withdrawChart, .suspendChart, .resumeChart, .restartChart, .setHold, .setInstrument,
    .readChart, .restoreChart] ++
  [.stageLot, .promoteLot, .retireLot, .readLot, .listLots, .stageProfile, .promoteProfile, .readProfile] ++
  [.writePattern, .readPattern, .listNotices, .acknowledgeNotice] ++
  [.closeDay, .setCalendar, .setLateWindow, .readCalendar] ++
  [.setWindow, .setPortOptions, .readFlags, .clearFlags, .setFlagEnables, .identify]

/-- The request a code octet names, if the table of R172 has it. -/
def codeOfOctet (o : Octet) : Option RequestCode := allCodes.find? fun k => codeOctet k == o

/-- Ten requests are engine work; the code alone decides it (R142). -/
def isEngineWork : RequestCode → Bool
  | .postReading | .enrolChart | .withdrawChart | .suspendChart | .resumeChart | .restartChart | .setHold
  | .setInstrument | .readChart | .restoreChart => true
  | .stageLot | .promoteLot | .retireLot | .readLot | .listLots | .stageProfile | .promoteProfile | .readProfile
  | .writePattern | .readPattern | .listNotices | .acknowledgeNotice
  | .closeDay | .setCalendar | .setLateWindow | .readCalendar
  | .setWindow | .setPortOptions | .readFlags | .clearFlags | .setFlagEnables | .identify => false

/-- Whether the rights admit a request (R157). -/
def hasRight (r : Rights) : RequestCode → Bool
  | .postReading => r.post
  | .enrolChart | .withdrawChart | .suspendChart | .resumeChart | .restartChart | .setHold | .setInstrument
  | .restoreChart | .stageLot | .promoteLot | .retireLot | .stageProfile | .promoteProfile | .writePattern
  | .setWindow => r.edit
  | .acknowledgeNotice => r.ack
  | .closeDay | .setCalendar | .setLateWindow => r.cal
  | .readChart | .readLot | .listLots | .readProfile | .readPattern | .listNotices | .readCalendar | .setPortOptions
  | .readFlags | .clearFlags | .setFlagEnables | .identify => true

/-- Whether a request admits a body of n octets (R172). -/
def admitsLength : RequestCode → Nat → Bool
  | .postReading, n => n == 31
  | .enrolChart, n => n == 5
  | .withdrawChart, n => n == 3
  | .suspendChart, n => n == 3
  | .resumeChart, n => n == 4
  | .restartChart, n => n == 3
  | .setHold, n => n == 5
  | .setInstrument, n => n == 9
  | .readChart, n => n == 3
  | .restoreChart, n => decide (132 ≤ n ∧ n ≤ 168) && (n - 132) % 3 == 0
  | .stageLot, n => n == 57
  | .promoteLot, n => n == 1
  | .retireLot, n => n == 3
  | .readLot, n => n == 4
  | .listLots, n => n == 1
  | .stageProfile, n => n == 46
  | .promoteProfile, n => n == 1
  | .readProfile, n => n == 2
  | .writePattern, n => n == 23
  | .readPattern, n => n == 1
  | .listNotices, n => n == 3
  | .acknowledgeNotice, n => n == 3
  | .closeDay, n => n == 0
  | .setCalendar, n => n == 2
  | .setLateWindow, n => n == 1
  | .readCalendar, n => n == 0
  | .setWindow, n => n == 5
  | .setPortOptions, n => n == 2
  | .readFlags, n => n == 0
  | .clearFlags, n => n == 1
  | .setFlagEnables, n => n == 1
  | .identify, n => n == 0

/-! ## Reading a request body (R171)

A body has a length its code admits (R156 step 8), so every offset used lies inside it. -/

/-- The octet at an offset, unsigned. -/
def u8 (body : List Octet) (i : Nat) : Nat := (body.getD i 0).toNat

/-- The two-octet unsigned field at an offset, in the body byte order (R171). -/
def u16 (order : ByteOrder) (body : List Octet) (i : Nat) : Nat :=
  match order with
  | .big => 256 * u8 body i + u8 body (i + 1)
  | .little => 256 * u8 body (i + 1) + u8 body i

/-- A 16-bit value read as two's complement (R171). -/
def signed16 (n : Nat) : Int := if n < 32768 then n else (n : Int) - 65536

/-- The two-octet signed field at an offset. -/
def s16 (order : ByteOrder) (body : List Octet) (i : Nat) : Int := signed16 (u16 order body i)

/-- One bit of the octet at an offset. -/
def bit8 (body : List Octet) (i k : Nat) : Bool := (body.getD i 0).getLsbD k

/-- Twelve unsigned fields, in item order (R2). -/
def items16 (order : ByteOrder) (body : List Octet) (i : Nat) : PerItem Nat :=
  PerItem.tab fun p c => u16 order body (i + 2 * itemNumber p c)

/-- Twelve signed fields, in PV order. -/
def pvs16 (order : ByteOrder) (body : List Octet) (i : Nat) : PerPv Int :=
  PerPv.tab fun g c => s16 order body (i + 2 * pvNumber g c)

/-! ## Writing a reply body (R159, R171) -/

/-- The two octets of a 16-bit value in a byte order. -/
def octets16 (order : ByteOrder) (v : BitVec 16) : List Octet :=
  match order with
  | .big => [v.extractLsb' 8 8, v.extractLsb' 0 8]
  | .little => [v.extractLsb' 0 8, v.extractLsb' 8 8]

def Field.octets (order : ByteOrder) : Field → List Octet
  | .o8 n => [BitVec.ofNat 8 n]
  | .o16 n => octets16 order (BitVec.ofNat 16 n)
  | .o16s i => octets16 order (BitVec.ofInt 16 i)

/-- The octets of a reply body: the status octet, then the fields (R159, R173). -/
def Reply.octets (order : ByteOrder) (r : Reply) : List Octet :=
  BitVec.ofNat 8 (statusOctet r.status) :: r.fields.flatMap (Field.octets order)

/-- A reply that carries its status alone. -/
def Reply.bare (st : Status) : Reply := ⟨st, []⟩

/-- A yes/no item as a bit of weight 2^k. -/
def bitAt (k : Nat) (b : Bool) : Nat := if b then 2 ^ k else 0

/-- The reply to a request: its tag, its code, and the body in a byte order (R159). -/
def replyFrame (order : ByteOrder) (r : Request) (rep : Reply) : ReplyFrame :=
  ⟨r.tag, codeOctet r.code, rep.octets order⟩

/-! ## Frames on the line (R153 to R155, R170) -/

/-- The check bits c2 c1 c0 of the information bits i3 i2 i1 i0 (R154). -/
def checkBits (i : BitVec 4) : BitVec 3 :=
  BitVec.ofBool (i.getLsbD 1 ^^ i.getLsbD 2 ^^ i.getLsbD 3) ++
    BitVec.ofBool (i.getLsbD 0 ^^ i.getLsbD 2 ^^ i.getLsbD 3) ++
    BitVec.ofBool (i.getLsbD 0 ^^ i.getLsbD 1 ^^ i.getLsbD 3)

/-- Whether an octet holds an odd number of ones. -/
def oddOnes (o : Octet) : Bool :=
  o.getLsbD 0 ^^ o.getLsbD 1 ^^ o.getLsbD 2 ^^ o.getLsbD 3 ^^ o.getLsbD 4 ^^ o.getLsbD 5 ^^ o.getLsbD 6 ^^ o.getLsbD 7

/-- The header octet p c2 c1 c0 i3 i2 i1 i0 of the information bits, with an even number of ones (R170). -/
def headerOctet (info : BitVec 4) : Octet :=
  let low : Octet := (checkBits info ++ info).zeroExtend 8
  if oddOnes low then low ^^^ 0x80 else low

/-- The bit of the header octet that a non-zero syndrome s2 s1 s0 names (R154). -/
def syndromeBit : BitVec 3 → Octet
  | 0b001 => 0x10
  | 0b010 => 0x20
  | 0b100 => 0x40
  | 0b011 => 0x01
  | 0b101 => 0x02
  | 0b110 => 0x04
  | 0b111 => 0x08
  | _ => 0x00

/-- The outcome of the header decode of R154. -/
inductive HeaderOutcome where
  /-- The octet to use, and whether a correction is counted. -/
  | taken (octet : Octet) (counted : Bool)
  | twoBits
  deriving DecidableEq, Repr

/-- The header decode of R154. -/
def decodeHeader (o : Octet) : HeaderOutcome :=
  let syndrome := checkBits (o.extractLsb' 0 4) ^^^ o.extractLsb' 4 3
  if oddOnes o then
    if syndrome = 0 then .taken (o ^^^ 0x80) false else .taken (o ^^^ syndromeBit syndrome) true
  else
    if syndrome = 0 then .taken o false else .twoBits

/-- The frame type of a header octet, i3 i2: REQUEST 0, REPLY 1, ABORT 2 (R170). -/
def headerType (o : Octet) : BitVec 2 := o.extractLsb' 2 2

/-- The tag of a header octet, i1 i0 (R170). -/
def headerTag (o : Octet) : BitVec 2 := o.extractLsb' 0 2

/-- One octet added to the two running sums, first sum first (R155). -/
def sumOctet (sums : Nat × Nat) (o : Octet) : Nat × Nat :=
  let first := (sums.1 + o.toNat) % 255
  (first, (sums.2 + first) % 255)

/-- The two running sums over octets, first sum first (R155). -/
def runningSums (octets : List Octet) : Nat × Nat := octets.foldl sumOctet (0, 0)

/-- The check octets of a frame: the second sum, then the first (R155, R170). -/
def checkOctets (octets : List Octet) : List Octet :=
  [BitVec.ofNat 8 (runningSums octets).2, BitVec.ofNat 8 (runningSums octets).1]

/-- The content of a frame: header, code, body length big-endian, body, check (R170). -/
def frameContent (type tag : BitVec 2) (code : Octet) (body : List Octet) : List Octet :=
  let front := headerOctet (type ++ tag) :: code :: (octets16 .big (BitVec.ofNat 16 body.length) ++ body)
  front ++ checkOctets front

/-- START, END and the escape octet are escaped inside a frame (R153). -/
def needsEscape (o : Octet) : Bool :=
  o == Config.startOctet || o == Config.endOctet || o == Config.escapeOctet

/-- One content octet as it stands on the line (R153). -/
def escapeOne (o : Octet) : List Octet :=
  if needsEscape o then [Config.escapeOctet, o ^^^ Config.escapeMask] else [o]

/-- The line octets of a content after START and before END (R153). -/
def escapeContent (content : List Octet) : List Octet := content.flatMap escapeOne

/-- A frame on the line, START to END (R153, R170). -/
def frameLine (content : List Octet) : List Octet :=
  Config.startOctet :: (escapeContent content ++ [Config.endOctet])

/-- A reply frame on the line: type REPLY (R159). -/
def replyLine (r : ReplyFrame) : List Octet := frameLine (frameContent 1 r.tag r.code r.body)

end Sys2Proof.Machine
end

