-- ==== Sys2Proof/Machine/Flags.lean ====
section
/-! DEFINITION. Flags: the event flags of the ports, their enables, what is shown of them, and the attention line
(R165 to R167). -/

namespace Sys2Proof.Machine

/-- The six event flags by name (R165). -/
inductive Flag where
  | notice | high | owed | sweep | table | link
  deriving DecidableEq, Repr

/-- A flag of a set. -/
def FlagSet.get (x : FlagSet) : Flag → Bool
  | .notice => x.notice
  | .high => x.high
  | .owed => x.owed
  | .sweep => x.sweep
  | .table => x.table
  | .link => x.link

/-- Sets a flag; one that is set stays set (R165). -/
def FlagSet.raise (x : FlagSet) : Flag → FlagSet
  | .notice => { x with notice := true }
  | .high => { x with high := true }
  | .owed => { x with owed := true }
  | .sweep => { x with sweep := true }
  | .table => { x with table := true }
  | .link => { x with link := true }

/-- The flags of both sets. -/
def FlagSet.inter (x y : FlagSet) : FlagSet :=
  ⟨x.notice && y.notice, x.high && y.high, x.owed && y.owed, x.sweep && y.sweep, x.table && y.table,
    x.link && y.link⟩

/-- The flags of the first set that are not in the second. -/
def FlagSet.diff (x y : FlagSet) : FlagSet :=
  ⟨x.notice && !y.notice, x.high && !y.high, x.owed && !y.owed, x.sweep && !y.sweep, x.table && !y.table,
    x.link && !y.link⟩

/-- Whether a set holds a flag. -/
def FlagSet.any (x : FlagSet) : Bool := x.notice || x.high || x.owed || x.sweep || x.table || x.link

/-- NOTICE in bit 0, HIGH 1, OWED 2, SWEEP 3, TABLE 4, LINK 5 (R172). -/
def FlagSet.number (x : FlagSet) : Nat :=
  bitAt 0 x.notice + bitAt 1 x.high + bitAt 2 x.owed + bitAt 3 x.sweep + bitAt 4 x.table + bitAt 5 x.link

/-- The flag set of an octet; bits 6 and 7 are reserved and ignored (R171, R172). -/
def FlagSet.ofOctet (o : Octet) : FlagSet :=
  ⟨o.getLsbD 0, o.getLsbD 1, o.getLsbD 2, o.getLsbD 3, o.getLsbD 4, o.getLsbD 5⟩

/-- The flags as shown: set, with the enable on (R166). -/
def shownFlags (ps : PortState) : FlagSet := ps.flags.inter ps.enables

/-- The port drives ATN low while at least one of its flags is set with its enable on (R167). -/
def atnLow (ps : PortState) : Bool := (shownFlags ps).any

/-- LDO is high unless a frame is being sent (R158, R169). -/
def ldoIdle (ps : PortState) : Bool := ps.sending.isNone

/-- A counter of 0..65535 that saturates (R48, R162). -/
def satInc16 (n : Nat) : Nat := if n < Config.max16 then n + 1 else n

/-- Sets a flag of a port. -/
def raisePort (f : Flag) (ps : PortState) : PortState := { ps with flags := ps.flags.raise f }

/-- A frame dropped at a port: the drop count rises by one and LINK is set (R162). -/
def countDrop (ps : PortState) : PortState :=
  raisePort .link { ps with drops := satInc16 ps.drops }

/-- A corrected header at a port: its count rises by one and LINK is set (R162). -/
def countCorrected (ps : PortState) : PortState :=
  raisePort .link { ps with correctedHeaders := satInc16 ps.correctedHeaders }

/-- Sets a flag at all three ports, whatever their enables (R119, R165). -/
def raiseAll (f : Flag) (s : State) : State :=
  { s with ports := ⟨raisePort f s.ports.a, raisePort f s.ports.b, raisePort f s.ports.c⟩ }

end Sys2Proof.Machine
end

