-- ==== Sys2Proof/Machine/Ops.lean ====
section
/-! DEFINITION. Ops: the named operations over the blocks: ports and their queue places, the Store Table, the
Reference Table's lots, and the Engine Arbiter (chapters 2, 3, 8 and 9). -/

namespace Sys2Proof.Machine

/-! ## Ports -/

/-- One port. -/
def State.port (s : State) : Port → PortState
  | .a => s.ports.a
  | .b => s.ports.b
  | .c => s.ports.c

def State.setPort (s : State) (p : Port) (ps : PortState) : State :=
  match p with
  | .a => { s with ports := { s.ports with a := ps } }
  | .b => { s with ports := { s.ports with b := ps } }
  | .c => { s with ports := { s.ports with c := ps } }

def State.modPort (s : State) (p : Port) (f : PortState → PortState) : State := s.setPort p (f (s.port p))

/-- The head of the request queue: the first place, in acceptance order, whose request has not ended (R158). -/
def queueHead : List Place → Option Place
  | [] => none
  | pl :: rest =>
    match pl.progress with
    | .answered _ => queueHead rest
    | .waiting => some pl
    | .inFlight => some pl

/-- Gives the request at the head of the queue another progress. -/
def setHead (progress : Progress) : List Place → List Place
  | [] => []
  | pl :: rest =>
    match pl.progress with
    | .answered _ => pl :: setHead progress rest
    | .waiting => { pl with progress := progress } :: rest
    | .inFlight => { pl with progress := progress } :: rest

/-- With LDO free, the port begins the oldest refusal, or else the reply of the oldest place once it is there: then
the replies of all requests accepted before it have been sent (R158). -/
def startSending (ps : PortState) : PortState :=
  match ps.sending with
  | some _ => ps
  | none =>
    match ps.refusals with
    | r :: _ => { ps with sending := some ⟨.refusal, replyLine r⟩ }
    | [] =>
      match ps.places with
      | ⟨_, .answered r⟩ :: _ => { ps with sending := some ⟨.reply, replyLine r⟩ }
      | _ => ps

/-- The reply of the request at the queue head joins the reply list, in the byte order the port now holds (R158,
R159). -/
def answerPlaces (r : Request) (rep : Reply) (ps : PortState) : PortState :=
  startSending { ps with places := setHead (.answered (replyFrame ps.byteOrder r rep)) ps.places }

/-- The port whose request the operation in flight serves. -/
def Operation.port? : Operation → Option Port
  | .granted c => some c.port
  | .evaluating c _ => some c.port
  | .enrolling c _ _ _ => some c.port
  | .withdrawing c _ _ => some c.port
  | .restoring c _ _ _ => some c.port
  | .slice _ _ => none

/-- Whether the operation in flight serves a port. Then the port serves no other request: those accepted after a
link reset wait behind the operation (R143, R161). -/
def engineServes (s : State) (p : Port) : Bool :=
  match s.engine with
  | some op => op.port? == some p
  | none => false

/-- The request at the head of a port's queue, when it waits to be taken or granted (R143, R158). -/
def waitingHead (s : State) (p : Port) : Option Request :=
  if engineServes s p then none
  else
    match queueHead (s.port p).places with
    | some ⟨r, .waiting⟩ => some r
    | _ => none

/-! ## Engine Arbiter (chapter 8) -/

/-- The next requester in the rotation order A, B, C, SWEEP (R144). -/
def Requester.next : Requester → Requester
  | .port .a => .port .b
  | .port .b => .port .c
  | .port .c => .sweep
  | .sweep => .port .a

/-- The four requesters in rotation order from one of them (R146). -/
def rotationFrom (q : Requester) : List Requester := [q, q.next, q.next.next, q.next.next.next]

/-- Whether a slice of the sweep is in flight. -/
def sliceInFlight (s : State) : Bool :=
  match s.engine with
  | some (.slice _ _) => true
  | _ => false

/-- Whether a requester is present (R145); a port whose own operation is in flight is not
(notes/assumptions/21.md). -/
def present (s : State) : Requester → Bool
  | .port p =>
    match waitingHead s p with
    | some r => isEngineWork r.code
    | none => false
  | .sweep => s.calendar.sweep == .sweeping && !sliceInFlight s

/-- Grants the engine to a port or the sweep, with a burst count: the request at the port's queue head, or the next
slice, is in flight (R146, R147). A request's body is read in the byte order held now (R159). -/
def grantTo (q : Requester) (burst : Nat) (s : State) : State :=
  match q with
  | .port p =>
    match waitingHead s p with
    | some r =>
      let s' := s.modPort p fun ps => { ps with places := setHead .inFlight ps.places }
      { s' with
        engine := some (.granted ⟨p, r, (s.port p).byteOrder, false⟩)
        arbiter := { s.arbiter with grant := some q, burst := burst } }
    | none => s
  | .sweep =>
    { s with
      engine := some (.slice 0 .arrive)
      arbiter := { s.arbiter with grant := some q, burst := burst } }

/-- The grant decision: with the engine free, the first requester present from the pointer on is granted with burst
count 1 (R146). -/
def arbitrate (s : State) : State :=
  match s.engine with
  | some _ => s
  | none =>
    match (rotationFrom s.arbiter.pointer).find? (present s) with
    | some q => grantTo q 1 s
    | none => s

/-- The grant passes on: the pointer moves to the requester after the holder, the grant becomes none and the burst
count 0; a grant decision follows (R147, R148). -/
def passOn (q : Requester) (s : State) : State := arbitrate { s with arbiter := ⟨q.next, none, 0⟩ }

/-- The decision at the end of a port's operation: the burst continues while the count is below the quota and the new
head is an engine request, or the grant passes on (R147). -/
def burstDecision (p : Port) (s : State) : State :=
  if s.arbiter.burst < (s.port p).quota ∧ present s (.port p) = true then
    grantTo (.port p) (s.arbiter.burst + 1) s
  else passOn (.port p) s

/-- The end of a port's operation: the request leaves the queue, its reply joins the port's replies unless a link
reset has made it one to discard, and the arbiter decides (R149, R150). -/
def finishOperation (c : Caller) (rep : Reply) (s : State) : State :=
  let ended := { s with engine := none }
  burstDecision c.port
    (if c.discardReply then ended else ended.modPort c.port (answerPlaces c.request rep))

/-- Owner work: the owner block takes the request at the head of a port's queue whole, when it has the given code,
and answers; the request leaves the queue, and the next head may be a requester (R143, R145). With no such request
at the head there is nothing to take (notes/assumptions/1.md). -/
def serveOwner (code : RequestCode) (p : Port) (take : ByteOrder → List Octet → State → Reply × State)
    (s : State) : State :=
  match waitingHead s p with
  | some r =>
    if r.code = code then
      let out := take (s.port p).byteOrder r.body s
      arbitrate (out.2.modPort p (answerPlaces r out.1))
    else s
  | none => s

/-! ## Store Table (R38) -/

/-- The entry of a store; a store that is not listed holds the reset entry. -/
def storeGet : StoreTable → Nat → StoreEntry
  | [], _ => StoreEntry.reset
  | (k, e) :: rest, n => if k = n then e else storeGet rest n

/-- Inserts an entry in ascending store number, and lists no reset entry. -/
def storeInsert : StoreTable → Nat → StoreEntry → StoreTable
  | [], n, e => if e = StoreEntry.reset then [] else [(n, e)]
  | (k, x) :: rest, n, e =>
    if n < k then
      if e = StoreEntry.reset then (k, x) :: rest else (n, e) :: (k, x) :: rest
    else if n = k then
      if e = StoreEntry.reset then rest else (n, e) :: rest
    else (k, x) :: storeInsert rest n e

/-- Writes the entry of a store 0..1023; there is no other store (R38). -/
def storePut (t : StoreTable) (n : Nat) (e : StoreEntry) : StoreTable :=
  if n < Config.stores then storeInsert t n e else t

/-- The canonical form of the Store Table: ascending store numbers inside 0..1023, no reset entry listed. -/
abbrev storeWf (t : StoreTable) : Prop :=
  t.Pairwise (fun x y => x.1 < y.1) ∧ ∀ x ∈ t, x.1 < Config.stores ∧ x.2 ≠ StoreEntry.reset

def StoreEntry.chart (e : StoreEntry) : Process → Chart
  | .f => e.film
  | .p => e.paper

def StoreEntry.withChart (e : StoreEntry) (pr : Process) (c : Chart) : StoreEntry :=
  match pr with
  | .f => { e with film := c }
  | .p => { e with paper := c }

/-- The entry of a store. -/
def State.entry (s : State) (n : Nat) : StoreEntry := storeGet s.stores n

def State.setEntry (s : State) (n : Nat) (e : StoreEntry) : State := { s with stores := storePut s.stores n e }

/-- The chart of a store and process. -/
def State.chart (s : State) (n : Nat) (pr : Process) : Chart := (s.entry n).chart pr

def State.setChart (s : State) (n : Nat) (pr : Process) (c : Chart) : State :=
  s.setEntry n ((s.entry n).withChart pr c)

def State.modChart (s : State) (n : Nat) (pr : Process) (f : Chart → Chart) : State :=
  s.setChart n pr (f (s.chart n pr))

/-- Sets the owed mark of a class (R47). -/
def Owed.mark (o : Owed) : NoticeClass → Owed
  | .condition => { o with condition := true }
  | .attendance => { o with attendance := true }
  | .held => { o with held := true }

/-- Clears the owed mark of a class (R138). -/
def Owed.clear (o : Owed) : NoticeClass → Owed
  | .condition => { o with condition := false }
  | .attendance => { o with attendance := false }
  | .held => { o with held := false }

/-- The owed mark of a class. -/
def Owed.get (o : Owed) : NoticeClass → Bool
  | .condition => o.condition
  | .attendance => o.attendance
  | .held => o.held

/-! ## Reference Table (R17 to R19) -/

def State.table (s : State) : Process → ProcTable
  | .f => s.refs.film
  | .p => s.refs.paper

def State.setTable (s : State) (pr : Process) (t : ProcTable) : State :=
  match pr with
  | .f => { s with refs := { s.refs with film := t } }
  | .p => { s with refs := { s.refs with paper := t } }

/-- The active lot of a number, if there is one (R17). -/
def findLot (lots : List LotRecord) (n : Nat) : Option LotRecord := lots.find? fun l => l.number == n

/-- Adds a lot in ascending lot number, or replaces the lot of that number (R17). -/
def insertLot : List LotRecord → LotRecord → List LotRecord
  | [], l => [l]
  | x :: rest, l =>
    if l.number < x.number then l :: x :: rest
    else if l.number = x.number then l :: rest
    else x :: insertLot rest l

/-- Removes the lot of a number. -/
def removeLot (lots : List LotRecord) (n : Nat) : List LotRecord := lots.filter fun l => l.number != n

/-- Changes the store count of the lot of a number. -/
def adjustCount (n : Nat) (f : Nat → Nat) (lots : List LotRecord) : List LotRecord :=
  lots.map fun l => if l.number = n then { l with storeCount := f l.storeCount } else l

/-- Whether a lot is active in a process (R17). -/
def lotActive (s : State) (pr : Process) (n : Nat) : Bool := (findLot (s.table pr).lots n).isSome

/-- −1 to a lot's store count; lot 0 is "none" (R19). -/
def countDown (pr : Process) (n : Nat) (s : State) : State :=
  if n = 0 then s
  else s.setTable pr { s.table pr with lots := adjustCount n (· - 1) (s.table pr).lots }

/-- +1 to a lot's store count (R19). -/
def countUp (pr : Process) (n : Nat) (s : State) : State :=
  s.setTable pr { s.table pr with lots := adjustCount n (· + 1) (s.table pr).lots }

/-- The question of Enrol Chart and Restore Chart: whether the lot is active, together with the +1, as one step; lot
0 asks nothing (R19, R54, R62). -/
def joinLot (pr : Process) (n : Nat) (s : State) : Option State :=
  if n = 0 then some s
  else if lotActive s pr n then some (countUp pr n s)
  else none

/-- The revision after one: 255 is followed by 1 (R18, R21). -/
def nextRevision (r : Nat) : Nat := if r < 255 then r + 1 else 1

end Sys2Proof.Machine
end

