-- ==== Sys2Proof/Machine/Density.lean ====
section
/-! DEFINITION. Density: the arithmetic of chapter 1, from codes to deviations (R6 to R13). -/

namespace Sys2Proof.Machine

/-- A value replaced by the nearer end of lo..hi when it lies outside (00_scope 5.2). -/
def clampInt (lo hi x : Int) : Int := if x < lo then lo else if hi < x then hi else x

/-- A value replaced by the nearer end of lo..hi when it lies outside (00_scope 5.2). -/
def clampNat (lo hi x : Nat) : Nat := if x < lo then lo else if hi < x then hi else x

/-- The sign of a value (00_scope 5.2). -/
def signOf (x : Int) : Sgn := if x < 0 then .neg else if x = 0 then .zero else .pos

/-- The full-scale code F = 2^r − 1 (R6). -/
def fullScale (r : Resolution) : Nat := 2 ^ resolutionNumber r - 1

/-- floor((k × 8000 + F) / (2 × F)) (R7). -/
def convertCode (full k : Nat) : Nat := (k * 8000 + full) / (2 * full)

/-- Normalization of one item: full-scale clamp, conversion, offset, range clamp. The density, and the clamped mark
(R6 to R9). -/
def normalizeItem (full : Nat) (offset : Int) (code : Nat) : Nat × Bool :=
  let sum : Int := (convertCode full (min code full) : Int) + 2 * offset
  ((clampInt 0 Config.maxDensity sum).toNat,
    decide (full < code) || decide (sum < 0) || decide ((Config.maxDensity : Int) < sum))

/-- The twelve densities and marks of a reading (R6 to R9). -/
def normalize (ins : Instrument) (codes : PerItem Nat) : PerItem (Nat × Bool) :=
  PerItem.tab fun p c => normalizeItem (fullScale ins.resolution) (ins.offsets.get c) (codes.item p c)

/-- A set of n yes/no items, item 0 in bit 0 (R171). -/
def bitsOf : (n : Nat) → (Nat → Bool) → BitVec n
  | 0, _ => 0#0
  | n + 1, f => BitVec.cons (f n) (bitsOf n f)

/-- The clamped mask, items numbered as R2 (R9). -/
def clampedMask (norm : PerItem (Nat × Bool)) : BitVec 12 := bitsOf 12 fun i => (norm.list.map Prod.snd).getD i false

/-- The measured plotting value of a group and channel (R10). -/
def measuredPv (d : PerItem Nat) (g : Group) (c : Channel) : Int :=
  match g with
  | .base => d.item .dmin c
  | .speed => d.item .low c
  | .contrast => (d.item .high c : Int) - (d.item .low c : Int)
  | .top => d.item .dmax c

/-- The aim plotting value: built from the reference densities in the same way, and the correction added (R11). -/
def aimPv (lot : LotValues) (g : Group) (c : Channel) : Int :=
  measuredPv lot.densities g c + lot.corrections.pv g c

/-- The deviation: measured less aim, saturated to −2047..+2047 (R12). -/
def saturateDeviation (x : Int) : Int := clampInt (-(Config.maxDeviation : Int)) Config.maxDeviation x

end Sys2Proof.Machine
end

