-- ==== Sys2Proof/Machine/Compute.lean ====
section
/-! DEFINITION. Compute: the COMPUTE stage of an evaluation (R71 to R81). -/

namespace Sys2Proof.Machine

/-- Whether a plotting value is charted in an evaluation: not named by the hold mask, and its group plotted (R71). -/
def isCharted (chart : Chart) (pf : ProfileValues) (g : Group) (c : Channel) : Bool :=
  pf.plotted.get g && !chart.hold.getLsbD (pvNumber g c)

/-- The limit class of a deviation (R72). -/
def limitClass (lim : Limits) (dev : Int) : LimitClass :=
  if dev.natAbs ≤ lim.cl then .within
  else if dev.natAbs ≤ lim.al then .warn (decide (0 < dev))
  else .action (decide (0 < dev))

/-- The step of the EWMA: difference × w / 16 rounded to the nearest integer, ties away from zero (R75). -/
def ewmaStep (w : Nat) (difference : Int) : Int :=
  let magnitude : Int := ((difference.natAbs * w + 8) / 16 : Nat)
  if difference < 0 then -magnitude else magnitude

/-- The new E of a charted plotting value: the seed of R74, or the update of R75. -/
def newEwma (seed : Bool) (w : Nat) (kept dev : Int) : Int :=
  if seed then dev * 16 else kept + ewmaStep w (dev * 16 - kept)

/-- The drift indicator of an E against the group's DL (R76). -/
def driftOf (dl : Nat) (e : Int) : Sgn :=
  if (dl : Int) * 16 < e then .pos else if e < -((dl : Int) * 16) then .neg else .zero

/-- This reading's run sign (R78). -/
def readingSign (rb : Nat) (dev : Int) : Sgn := if rb < dev.natAbs then signOf dev else .zero

/-- The new run sign and run count (R78). -/
def newRun (kept : Sgn × Nat) (sign : Sgn) : Sgn × Nat :=
  match sign with
  | .zero => (.zero, 0)
  | .neg => if kept.1 = .neg then (.neg, min Config.maxRun (kept.2 + 1)) else (.neg, 1)
  | .pos => if kept.1 = .pos then (.pos, min Config.maxRun (kept.2 + 1)) else (.pos, 1)

/-- Whether up holds (R80). -/
def upHolds (cls : LimitClass) (drift : Sgn) (run : Bool) (sign : Sgn) : Bool :=
  (cls == .warn true || cls == .action true) || drift == .pos || (run && sign == .pos)

/-- Whether down holds (R80). -/
def downHolds (cls : LimitClass) (drift : Sgn) (run : Bool) (sign : Sgn) : Bool :=
  (cls == .warn false || cls == .action false) || drift == .neg || (run && sign == .neg)

/-- The symptom of a charted plotting value (R80). -/
def symptomOf (up down : Bool) : Symptom :=
  match up, down with
  | true, false => .up
  | false, true => .down
  | true, true => .mixed
  | false, false => .none

/-- The kept run of a plotting value; a lot change takes it as 0 (R77). -/
def keptRun (lotChanged : Bool) (pv : PvState) : Sgn × Nat :=
  if lotChanged then (.zero, 0) else (pv.runSign, pv.runCount)

/-- The working values of a charted plotting value (R72 to R80). -/
def chartedWork (lim : Limits) (pf : ProfileValues) (seed : Bool) (kept : Sgn × Nat) (pv : PvState) (dev : Int) :
    PvWork :=
  let cls := limitClass lim dev
  let e := newEwma seed pf.weight pv.ewma dev
  let drift := driftOf lim.dl e
  let run := newRun kept (readingSign lim.rb dev)
  let isRun := decide (pf.runLength ≤ run.2)
  { charted := true
    deviation := dev
    limitClass := cls
    ewma := e
    drift := drift
    runSign := run.1
    runCount := run.2
    run := isRun
    symptom := symptomOf (upHolds cls drift isRun run.1) (downHolds cls drift isRun run.1) }

/-- The working values of a held plotting value: its deviation alone is formed (R79). -/
def heldWork (kept : Sgn × Nat) (pv : PvState) (dev : Int) : PvWork :=
  { charted := false
    deviation := dev
    limitClass := .within
    ewma := pv.ewma
    drift := .zero
    runSign := kept.1
    runCount := kept.2
    run := false
    symptom := .none }

/-- The working values of a plotting value (R71). -/
def pvWork (chart : Chart) (pf : ProfileValues) (lotChanged : Bool) (g : Group) (c : Channel) (dev : Int) : PvWork :=
  let pv := chart.pvs.pv g c
  let kept := keptRun lotChanged pv
  if isCharted chart pf g c then chartedWork (pf.limits.get g) pf chart.seedPending kept pv dev
  else heldWork kept pv dev

/-- The deviations of the charted channels of a group. -/
def chartedDeviations (work : Channels PvWork) : List Int :=
  (work.toList.filter (·.charted)).map (·.deviation)

/-- Largest less smallest of a list of deviations. -/
def spreadValue (devs : List Int) : Int :=
  match devs with
  | [] => 0
  | d :: rest => rest.foldl max d - rest.foldl min d

/-- The spread item of a group. A channel of an unplotted group is not charted, so such a group has fewer than two
charted channels (R71, R73). -/
def spreadItem (sl : Nat) (work : Channels PvWork) : Spread :=
  let devs := chartedDeviations work
  if 2 ≤ devs.length ∧ (sl : Int) < spreadValue devs then .present else .absent

/-- The COMPUTE stage: chapter 1's arithmetic on the store's settings and the lot snapshot, then R71 to R81 on the
chart and the profile snapshot. -/
def compute (ins : Instrument) (chart : Chart) (rd : Reading) (day window : Nat) (lot : LotRecord) (pf : Profile) :
    Evaluation :=
  let norm := normalize ins rd.codes
  let densities := PerItem.tab fun p c => (norm.item p c).1
  let measured := PerPv.tab (measuredPv densities)
  let aims := PerPv.tab (aimPv lot.values)
  let lotChanged := decide (rd.lot ≠ chart.currentLot)
  let work := PerPv.tab fun g c =>
    pvWork chart pf.values lotChanged g c (saturateDeviation (measured.pv g c - aims.pv g c))
  { reading := rd
    calendarDay := day
    lateWindow := window
    lot := lot
    profile := pf
    clampedMask := clampedMask norm
    densities := densities
    measured := measured
    aims := aims
    pvs := work
    spread := Groups.tab fun g => spreadItem (pf.values.limits.get g).sl (work.get g)
    seeded := chart.seedPending
    lotChanged := lotChanged }

end Sys2Proof.Machine
end

