-- ==== Sys2Proof/Machine/Classify.lean ====
section
/-! DEFINITION. Classify: the CLASSIFY stage of an evaluation: raw matching, persistence, the winner and the fallback
conditions (R99 to R109). -/

namespace Sys2Proof.Machine

/-- The number of a spread item of the symptom vector (R81). -/
def spreadNumberOf (g : Group) : Nat := 12 + g.number

/-- Whether a plotting-value item agrees with an expected value (R100). -/
def expectMatches : Expect → Symptom → Bool
  | .none, v => v == .none
  | .up, v => v == .up
  | .down, v => v == .down
  | .any, v => v != .none

/-- Whether an entry matches raw: enabled, and every item of its care set matches (R101). -/
def matchesRaw (e : PatternEntry) (ev : Evaluation) : Bool :=
  e.enabled &&
  (allPvs.all fun gc =>
    !e.care.getLsbD (pvNumber gc.1 gc.2) || expectMatches (e.expectPv.pv gc.1 gc.2) (ev.pvs.pv gc.1 gc.2).symptom) &&
  (allGroups.all fun g =>
    !e.care.getLsbD (spreadNumberOf g) || e.expectSpread.get g == ev.spread.get g)

/-- The final result of an entry from its raw match and the chart's latched bit; a disabled entry's is false in every
mode (R103). -/
def finalResult (e : PatternEntry) (raw latched : Bool) : Bool :=
  e.enabled &&
  match e.mode with
  | .plain => raw
  | .confirmed => raw && latched
  | .onset => raw && !latched
  | .cleared => latched && !raw

/-- An entry of the engine's copy of the table. -/
def entryAt (table : List PatternEntry) (i : Nat) : PatternEntry := table.getD i PatternEntry.zero

/-- The raw match set (R102). -/
def rawMatchSet (table : List PatternEntry) (ev : Evaluation) : BitVec 16 :=
  bitsOf 16 fun i => matchesRaw (entryAt table i) ev

/-- The matched set: the final result of each entry (R103, R105). -/
def matchedSet (table : List PatternEntry) (raw latched : BitVec 16) : BitVec 16 :=
  bitsOf 16 fun i => finalResult (entryAt table i) (raw.getLsbD i) (latched.getLsbD i)

/-- Of two entries whose final result is true, the earlier stays unless the later has the higher severity (R105). -/
def betterEntry (table : List PatternEntry) (best : Option Nat) (i : Nat) : Option Nat :=
  match best with
  | none => some i
  | some b =>
    if severityNumber (entryAt table b).severity < severityNumber (entryAt table i).severity then some i else some b

/-- The winner: the highest severity, then the lowest entry number (R105). -/
def winner (table : List PatternEntry) (matched : BitVec 16) : Option Nat :=
  ((List.range 16).filter fun i => matched.getLsbD i).foldl (betterEntry table) none

/-- The pairs of PV number and deviation of the plotting values a test picks, in ascending PV number (R106, R108). -/
def deviationList (ev : Evaluation) (pick : Group → Channel → Bool) : List (Nat × Int) :=
  (allPvs.filter fun gc => pick gc.1 gc.2).map fun gc => (pvNumber gc.1 gc.2, (ev.pvs.pv gc.1 gc.2).deviation)

/-- Limit class +2 or −2 (R107). -/
def isAction (w : PvWork) : Bool := w.charted && (w.limitClass == .action true || w.limitClass == .action false)

/-- Drift indicator +1 or −1 (R107). -/
def isDrift (w : PvWork) : Bool := w.charted && w.drift != .zero

/-- RUN holds (R107). -/
def isRun (w : PvWork) : Bool := w.charted && w.run

/-- A charted plotting value of a group whose spread item is PRESENT (R108). -/
def inSpread (ev : Evaluation) (g : Group) (c : Channel) : Bool :=
  (ev.pvs.pv g c).charted && ev.spread.get g == .present

/-- Whether a test picks some plotting value. -/
def somePv (ev : Evaluation) (test : PvWork → Bool) : Bool := allPvs.any fun gc => test (ev.pvs.pv gc.1 gc.2)

/-- The fallback conditions in order, or no condition (R107 to R109). -/
def fallback (ev : Evaluation) (raw : BitVec 16) : Result :=
  if somePv ev isAction then
    ⟨60, .adjust, 0, deviationList ev fun g c => isAction (ev.pvs.pv g c), raw⟩
  else if somePv ev isDrift then
    ⟨61, .watch, 0, deviationList ev fun g c => isDrift (ev.pvs.pv g c), raw⟩
  else if somePv ev isRun then
    ⟨62, .watch, 0, deviationList ev fun g c => isRun (ev.pvs.pv g c), raw⟩
  else if allGroups.any fun g => ev.spread.get g == .present then
    ⟨63, .watch, 0, deviationList ev (inSpread ev), raw⟩
  else ⟨0, .info, 0, [], raw⟩

/-- The result of classification from the engine's copy of the Pattern Table and the chart's latched match set (R82,
R99). -/
def classifyWith (table : List PatternEntry) (latched : BitVec 16) (ev : Evaluation) : Result :=
  let raw := rawMatchSet table ev
  let matched := matchedSet table raw latched
  match winner table matched with
  | some i =>
    let e := entryAt table i
    ⟨e.code, e.severity, matched, deviationList ev fun g c => e.care.getLsbD (pvNumber g c), raw⟩
  | none => fallback ev raw

/-- The CLASSIFY stage on the machine: the copy of the table is taken now, and the latched match set is the chart's
(R82, R99). -/
def classifyNow (ev : Evaluation) (s : State) : Result :=
  classifyWith s.patterns.toList (s.chart ev.reading.store ev.reading.process).latched ev

end Sys2Proof.Machine
end

