-- ==== Sys2Proof/Machine/Notices.lean ====
section
/-! DEFINITION. Notices: the Notice Queue takes an offer: merge, insertion or refusal, with its event flags, and the
owed mark of a refused offer (R110 to R120). -/

namespace Sys2Proof.Machine

/-- The id after one: 65535 is followed by 1 (R113). -/
def nextId (n : Nat) : Nat := if n < Config.max16 then n + 1 else 1

/-- The first id from one upward that no entry holds, looking at no more than `fuel` values (R113). With at most 63
entries a free one is among the first 64. -/
def freeId (held : List Nat) : Nat → Nat → Nat
  | 0, id => id
  | fuel + 1, id => if id ∈ held then freeId held fuel (nextId id) else id

/-- Whether an entry is of an offer's chart and class (R114). -/
def sameSubject (o : Offer) (e : Notice) : Bool := e.store == o.store && e.process == o.process && e.cls == o.cls

/-- An entry after a merge (R115, R116). -/
def mergeEntry (o : Offer) (e : Notice) : Notice :=
  let higher := decide (severityNumber e.severity < severityNumber o.severity)
  { e with
    occurrences := if e.occurrences < Config.max8 then e.occurrences + 1 else e.occurrences
    lastDay := o.day
    kind := o.kind
    latestCode := o.code
    matched := o.matched
    deviations := o.deviations
    missed := o.missed
    parkedLot := o.parkedLot
    severity := if higher then o.severity else e.severity
    peakCode := if higher then o.code else e.peakCode }

/-- A new entry (R117). -/
def newEntry (id : Nat) (o : Offer) : Notice where
  id := id
  cls := o.cls
  kind := o.kind
  store := o.store
  process := o.process
  firstDay := o.day
  lastDay := o.day
  occurrences := 1
  severity := o.severity
  peakCode := o.code
  latestCode := o.code
  matched := o.matched
  deviations := o.deviations
  missed := o.missed
  parkedLot := o.parkedLot

/-- The queue's answer to an offer (R114). -/
inductive OfferAnswer where
  | merged (id : Nat)
  | inserted (id : Nat)
  | refused
  deriving DecidableEq, Repr

/-- The id an insertion gives (R113). -/
def idForInsertion (q : NoticeQueue) : Nat := freeId (q.entries.map (·.id)) Config.noticeEntries q.nextId

/-- The queue takes an offer as one step, with the event flags of R119 (R114). -/
def takeOffer (o : Offer) (s : State) : OfferAnswer × State :=
  let q := s.notices
  match q.entries.find? (sameSubject o) with
  | some e =>
    (.merged e.id,
      raiseAll .notice
        { s with notices := { q with entries := q.entries.map fun x => if sameSubject o x then mergeEntry o x else x } })
  | none =>
    if q.entries.length < Config.noticeEntries then
      let id := idForInsertion q
      let s' := raiseAll .notice { s with notices := ⟨q.entries ++ [newEntry id o], nextId id⟩ }
      (.inserted id, if q.entries.length + 1 = Config.noticeHigh then raiseAll .high s' else s')
    else (.refused, raiseAll .owed s)

/-- The operation's use of the answer: a refused offer sets the chart's owed mark of its class (R118, R120). -/
def offerOrOwe (o : Offer) (s : State) : OfferAnswer × State :=
  match takeOffer o s with
  | (.refused, s') => (.refused, s'.modChart o.store o.process fun c => { c with owed := c.owed.mark o.cls })
  | (.merged id, s') => (.merged id, s')
  | (.inserted id, s') => (.inserted id, s')

/-- The notice id a reply carries: the entry's, or 0 when the offer was refused (R120). -/
def OfferAnswer.noticeId : OfferAnswer → Nat
  | .merged id => id
  | .inserted id => id
  | .refused => 0

/-- The OWED indicator (R120). -/
def OfferAnswer.isRefused : OfferAnswer → Bool
  | .refused => true
  | .merged _ => false
  | .inserted _ => false

/-- The removal of every entry of a chart, of any class (R126). -/
def removeNotices (store : Nat) (pr : Process) (q : NoticeQueue) : NoticeQueue :=
  { q with entries := q.entries.filter fun e => !(e.store == store && e.process == pr) }

/-- The number of entries of a chart (R126). -/
def countNotices (store : Nat) (pr : Process) (q : NoticeQueue) : Nat :=
  (q.entries.filter fun e => e.store == store && e.process == pr).length

/-! ## The offers of R110 -/

/-- DRIFT: the result of a reading (R89, R110). -/
def driftOffer (store : Nat) (pr : Process) (r : LastResult) : Offer :=
  ⟨store, pr, .condition, .drift, r.day, r.severity, r.code, r.matched, r.deviations, none, none⟩

/-- OVERDUE: class ATTENDANCE, severity WATCH, code 0 (R110, R136). -/
def overdueOffer (store : Nat) (pr : Process) (day missed : Nat) : Offer :=
  ⟨store, pr, .attendance, .overdue, day, .watch, 0, 0, [], some missed, none⟩

/-- RESUMED: class ATTENDANCE, severity INFO, code 0 (R87, R110). -/
def resumedOffer (store : Nat) (pr : Process) (day missed : Nat) : Offer :=
  ⟨store, pr, .attendance, .resumed, day, .info, 0, 0, [], some missed, none⟩

/-- UNKNOWN_LOT: class HELD, severity WATCH, code 0 (R69, R84, R110). -/
def heldOffer (store : Nat) (pr : Process) (day lot : Nat) : Offer :=
  ⟨store, pr, .held, .unknownLot, day, .watch, 0, 0, [], none, some lot⟩

end Sys2Proof.Machine
end

