-- ==== Sys2Proof/Machine/Commit.lean ====
section
/-! DEFINITION. Commit: what ends an evaluation: parking, the question about the lot, the chart writes, the offers and
the replies (R69, R83 to R92); and an evaluation step by step and run to its end. Shared by Post Reading and by the
sweep's retry (R93). -/

namespace Sys2Proof.Machine

/-- Parking, its first step: the chart's slot is filled, whatever it held (R50, R69, R84). -/
def fillSlot (rd : Reading) (s : State) : State :=
  s.modChart rd.store rd.process fun c => { c with parked := some ⟨rd.lot, rd.day, rd.codes⟩ }

/-- Parking, its second step: a HELD notice is offered (R69, R84). -/
def offerHeld (rd : Reading) (s : State) : OfferAnswer × State :=
  offerOrOwe (heldOffer rd.store rd.process rd.day rd.lot) s

/-- The PARKED reply: OWED in bit 3 of the indicators, the parked lot, the notice id of the HELD entry (R92, R174). -/
def parkedReply (lot : Nat) (a : OfferAnswer) : Reply :=
  ⟨.parked, [.o8 (bitAt 3 a.isRefused), .o16 lot, .o16 a.noticeId]⟩

/-- The question of R83: whether the reading's lot is active, together with the store-count adjustments of a lot
change, as one step. -/
def moveLot (pr : Process) (old new : Nat) (s : State) : Option State :=
  if lotActive s pr new then
    some (if new = old then s else countUp pr new (countDown pr old s))
  else none

/-- Whether the reading is on an expired lot, by the snapshot (R90). -/
def lotExpired (ev : Evaluation) : Bool :=
  match ev.lot.values.lastUsable with
  | some d => decide (d < ev.reading.day)
  | none => false

/-- The per-PV item a commit writes: charted items are written, held ones keep deviation and E, and their run falls to
0 in a lot change (R79, R85). -/
def writtenPv (w : PvWork) (kept : PvState) : PvState :=
  if w.charted then ⟨some w.deviation, w.ewma, w.runSign, w.runCount⟩
  else { kept with runSign := w.runSign, runCount := w.runCount }

/-- L after an evaluated reading: the later of L and the reading's day (R85). -/
def laterDay (last : Option Nat) (day : Nat) : Nat :=
  match last with
  | none => day
  | some l => max l day

/-- The parked reading after an evaluated reading: discarded unless its day is later (R88). -/
def parkedAfter (parked : Option Parked) (day : Nat) : Option Parked :=
  match parked with
  | some pk => if pk.day ≤ day then none else some pk
  | none => none

/-- The last result a commit writes (R85). -/
def lastResultOf (ev : Evaluation) (res : Result) : LastResult :=
  ⟨ev.reading.day, res.code, res.severity, res.matched, res.deviations⟩

/-- The missed count after an evaluated reading: the lesser of the kept count and max(0, C − 1 − day) (R86). -/
def missedAfter (missed calendarDay day : Nat) : Nat := min missed (calendarDay - 1 - day)

/-- The chart record after an evaluated reading (R85 to R88, R90). -/
def writtenChart (ev : Evaluation) (res : Result) (c : Chart) : Chart :=
  { c with
    state := if c.state = .overdue then .active else c.state
    seedPending := false
    currentLot := ev.reading.lot
    lotRevision := ev.lot.revision
    lastDay := some (laterDay c.lastDay ev.reading.day)
    missed := missedAfter c.missed ev.calendarDay ev.reading.day
    pvs := PerPv.tab fun g ch => writtenPv (ev.pvs.pv g ch) (c.pvs.pv g ch)
    latched := res.rawMatch
    lastResult := some (lastResultOf ev res)
    parked := parkedAfter c.parked ev.reading.day
    evaluatedCount := satInc16 c.evaluatedCount
    expiredCount := if lotExpired ev then satInc16 c.expiredCount else c.expiredCount }

/-- The offers of a commit, in order: RESUMED for a chart that was OVERDUE, DRIFT for a condition code other than 0
(R87, R89). -/
def commitOffers (ev : Evaluation) (res : Result) (c : Chart) : List Offer :=
  (if c.state = .overdue then
    [resumedOffer ev.reading.store ev.reading.process ev.reading.day
      (missedAfter c.missed ev.calendarDay ev.reading.day)]
  else []) ++
  (if res.code = 0 then [] else [driftOffer ev.reading.store ev.reading.process (lastResultOf ev res)])

/-- The commit up to its offers: the lot question and the chart writes, with the offers to make; none when the lot is
not active and the reading is to be parked (R83 to R88). -/
def commitWrite (ev : Evaluation) (res : Result) (s : State) : Option (List Offer × State) :=
  let c := s.chart ev.reading.store ev.reading.process
  match moveLot ev.reading.process c.currentLot ev.reading.lot s with
  | some s' => some (commitOffers ev res c, s'.setChart ev.reading.store ev.reading.process (writtenChart ev res c))
  | none => none

/-- The notice id of the reply is that of the CONDITION offer (R91). -/
def replyId (o : Offer) (a : OfferAnswer) (id : Nat) : Nat := if o.cls = .condition then a.noticeId else id

/-- Makes offers in order; collects the notice id and the OWED indicator of the reply (R89, R91). -/
def makeOffers : List Offer → Nat → Bool → State → (Nat × Bool) × State
  | [], id, owed, s => ((id, owed), s)
  | o :: rest, id, owed, s =>
    let out := offerOrOwe o s
    makeOffers rest (replyId o out.1 id) (owed || out.1.isRefused) out.2

/-- The symptom vector's sixteen octets (R81, R174). -/
def symptomFields (ev : Evaluation) : List Field :=
  (ev.pvs.list.map fun w => Field.o8 (symptomNumber w.symptom)) ++
  (ev.spread.toList.map fun v => Field.o8 (spreadNumber v))

/-- The reply to an evaluated reading (R91, R174). -/
def evaluatedReply (ev : Evaluation) (res : Result) (id : Nat) (owed : Bool) : Reply :=
  ⟨.ok,
    [.o8 (bitAt 0 ev.lotChanged + bitAt 1 (lotExpired ev) + bitAt 2 ev.seeded + bitAt 3 owed),
      .o16 ev.clampedMask.toNat] ++
    (ev.pvs.list.map fun w => Field.o16s w.deviation) ++
    symptomFields ev ++
    [.o8 res.code, .o8 (severityNumber res.severity), .o16 res.matched.toNat, .o16 id]⟩

/-! ## An evaluation run to its end, and step by step -/

/-- The rest of a commit's offers, and the evaluated reply (R89, R91). -/
def finishOffers (ev : Evaluation) (res : Result) (offers : List Offer) (id : Nat) (owed : Bool) (s : State) :
    Reply × State :=
  let out := makeOffers offers id owed s
  (evaluatedReply ev res out.1.1 out.1.2, out.2)

/-- The HELD offer, and the PARKED reply (R69, R84). -/
def finishHeld (rd : Reading) (s : State) : Reply × State :=
  let out := offerHeld rd s
  (parkedReply rd.lot out.1, out.2)

/-- The COMMIT stage: the evaluated reply, or PARKED for a lot retired in flight, and the state it leaves (R83 to
R91). -/
def runCommit (ev : Evaluation) (res : Result) (s : State) : Reply × State :=
  match commitWrite ev res s with
  | some (offers, s') => finishOffers ev res offers 0 false s'
  | none => finishHeld ev.reading (fillSlot ev.reading s)

/-- An evaluation from one of its stages to its end. -/
def runEval (st : EvalStage) (s : State) : Reply × State :=
  match st with
  | .computed ev => runCommit ev (classifyNow ev s) s
  | .classified ev res => runCommit ev res s
  | .offering ev res offers id owed => finishOffers ev res offers id owed s
  | .parking rd => finishHeld rd s
  | .ending rep => (rep, s)

/-- What is left of a commit: the rest of its offers, or its end with the evaluated reply (R89, R91). -/
def offersLeft (ev : Evaluation) (res : Result) (offers : List Offer) (id : Nat) (owed : Bool) : EvalStage :=
  match offers with
  | [] => .ending (evaluatedReply ev res id owed)
  | o :: rest => .offering ev res (o :: rest) id owed

/-- An evaluation from one of its stages to the next inner point. Each step asks one question of one owner block or
makes one offer, and between two of them the owner blocks may take requests (R64, R114). -/
def evalPart (st : EvalStage) (s : State) : EvalStage × State :=
  match st with
  | .computed ev => (.classified ev (classifyNow ev s), s)
  | .classified ev res =>
    match commitWrite ev res s with
    | some (offers, s') => (offersLeft ev res offers 0 false, s')
    | none => (.parking ev.reading, fillSlot ev.reading s)
  | .offering ev res [] id owed => (.ending (evaluatedReply ev res id owed), s)
  | .offering ev res (o :: rest) id owed =>
    let out := offerOrOwe o s
    (offersLeft ev res rest (replyId o out.1 id) (owed || out.1.isRefused), out.2)
  | .parking rd =>
    let out := finishHeld rd s
    (.ending out.1, out.2)
  | .ending rep => (.ending rep, s)

end Sys2Proof.Machine
end

