-- ==== Sys2Proof/Machine/Readings.lean ====
section
/-! DEFINITION. Readings: POST_READING, CLASSIFY and EVALUATION_COMMIT (chapter 4). They act on the operation in
flight; when it is not at the stage a command names, there is nothing to take (notes/assumptions/1.md). The inner
points of EVALUATION_COMMIT are the stages of `evalPart`, reached with the extent `part` (notes/assumptions/4.md). -/

namespace Sys2Proof.Machine

/-- Runs f on a granted request of the given code whose ACCEPT or grant checks are still to be made (R149). -/
def withGranted (code : RequestCode) (f : Caller → State → State) (s : State) : State :=
  match s.engine with
  | some (.granted c) => if c.request.code = code then f c s else s
  | _ => s

/-- Whether a store lies in a posting window (R66). -/
def inWindow (w : Window) (store : Nat) : Bool := decide (w.base ≤ store) && decide (store < w.base + w.size)

/-- The lowest accepted day: C − W when C is at least W, and 0 otherwise (R67). -/
def lowestDay (day window : Nat) : Nat := day - window

/-- C and W, as FUTURE_DAY and TOO_LATE carry them (R92, R172). -/
def calendarFields (day window : Nat) : List Field := [.o16 day, .o8 window]

/-- Whether a reading's day is earlier than L (R68). -/
def isStale (last : Option Nat) (day : Nat) : Bool :=
  match last with
  | some l => decide (day < l)
  | none => false

/-- Checks 1 to 4 of R65 on the carried reading: the reading, or the refusal (R66, R174). -/
def portChecks (c : Caller) (s : State) : Except Reply Reading :=
  let body := c.request.body
  let store := u16 c.order body 0
  match processOfNumber (u8 body 2) with
  | none => .error (.bare .badValue)
  | some pr =>
    if inWindow (s.port c.port).window store then
      let st := (s.chart store pr).state
      if st = .off then .error (.bare .notEnrolled)
      else if st = .suspended then .error (.bare .suspended)
      else .ok ⟨store, pr, u16 c.order body 3, u16 c.order body 5, items16 c.order body 7⟩
    else .error (.bare .outOfWindow)

/-- Checks 5 to 8 of R65 on a snapshot of C and W: none when they pass, or the reply, with the state that a STALE_DAY
refusal leaves: one stale count more (R67, R68, R92). -/
def dayRefusal (rd : Reading) (day window : Nat) (s : State) : Option (Reply × State) :=
  let last := (s.chart rd.store rd.process).lastDay
  if day < rd.day then some (⟨.futureDay, calendarFields day window⟩, s)
  else if rd.day < lowestDay day window then some (⟨.tooLate, calendarFields day window⟩, s)
  else if isStale last rd.day then
    some (⟨.staleDay, [.o16 (last.getD 0)]⟩,
      s.modChart rd.store rd.process fun ch => { ch with staleCount := satInc16 ch.staleCount })
  else if rd.lot = 0 then some (.bare .badValue, s)
  else none

/-- COMPUTE on the snapshots of a reading, its chart and its store's instrument settings (R67, R70, R71 to R81). -/
def evaluate (rd : Reading) (day window : Nat) (lot : LotRecord) (profile : Profile) (s : State) : Evaluation :=
  compute (s.entry rd.store).instrument (s.chart rd.store rd.process) rd day window lot profile

/-! ## ACCEPT -/

/-- The end of an operation with a reply on the state that comes with it. -/
def finishWith (c : Caller) (out : Reply × State) : State := finishOperation c out.1 out.2

/-- Check 9: the lot question. The reading is parked, or the snapshots of R70 come with the answer and COMPUTE runs
(R69, R70). -/
def acceptLot (c : Caller) (rd : Reading) (day window : Nat) (s : State) : State :=
  match findLot (s.table rd.process).lots rd.lot with
  | none => finishWith c (finishHeld rd (fillSlot rd s))
  | some lot =>
    { s with
      engine := some (.evaluating c (.computed (evaluate rd day window lot (s.table rd.process).profile s))) }

/-- Checks 5 to 9, from the calendar question on (R67). -/
def acceptDay (c : Caller) (rd : Reading) (s : State) : State :=
  match dayRefusal rd s.calendar.day s.calendar.lateWindow s with
  | some out => finishWith c out
  | none => acceptLot c rd s.calendar.day s.calendar.lateWindow s

/-- The whole of ACCEPT, and COMPUTE when it passes (R65 to R70). -/
def acceptReading (c : Caller) (s : State) : State :=
  match portChecks c s with
  | .error rep => finishOperation c rep s
  | .ok rd => acceptDay c rd s

/-- POST_READING (R65). -/
def execPostReading (s : State) : Host.Outcome State Fault Refusal :=
  .next (withGranted .postReading acceptReading s)

/-! ## CLASSIFY and COMMIT -/

/-- The CLASSIFY stage of the evaluation in flight (R82, R99). -/
def classifyStage (s : State) : State :=
  match s.engine with
  | some (.evaluating c (.computed ev)) =>
    { s with engine := some (.evaluating c (.classified ev (classifyNow ev s))) }
  | _ => s

/-- CLASSIFY (R99). -/
def execClassify (s : State) : Host.Outcome State Fault Refusal := .next (classifyStage s)

/-- The COMMIT stage run to its end (R83 to R91). -/
def commitStage (s : State) : State :=
  match s.engine with
  | some (.evaluating _ (.computed _)) => s
  | some (.evaluating c st) => finishWith c (runEval st s)
  | _ => s

/-- The COMMIT stage up to its next inner point: after the chart writes, after each offer, and at its end. -/
def commitPart (s : State) : State :=
  match s.engine with
  | some (.evaluating _ (.computed _)) => s
  | some (.evaluating c (.ending rep)) => finishOperation c rep s
  | some (.evaluating c st) =>
    let out := evalPart st s
    { out.2 with engine := some (.evaluating c out.1) }
  | _ => s

/-- EVALUATION_COMMIT (R83). -/
def execEvaluationCommit (x : Extent) (s : State) : Host.Outcome State Fault Refusal :=
  match x with
  | .whole => .next (commitStage s)
  | .part => .next (commitPart s)

end Sys2Proof.Machine
end

