-- ==== Sys2Proof/Machine/ChartEdits.lean ====
section
/-! DEFINITION. ChartEdits: the chart edit requests at their grant and at their commit (section 3.5, R49, R52 to R62),
with the chart record's octets (R176). -/

namespace Sys2Proof.Machine

/-- The chart a request names, when the store and process checks of R52 pass. -/
def namedChart (c : Caller) : Option (Nat × Process) :=
  let store := u16 c.order c.request.body 0
  if store < Config.stores then (processOfNumber (u8 c.request.body 2)).map fun pr => (store, pr) else none

/-- A request on a chart: BAD_VALUE when checks 1 and 2 of R52 fail, and f otherwise. -/
def onChart (c : Caller) (f : Nat → Process → State → State) (s : State) : State :=
  match namedChart c with
  | some (store, pr) => f store pr s
  | none => finishOperation c (.bare .badValue) s

/-- A change of the enrolment count (R53). -/
def State.modEnrolment (s : State) (f : Nat → Nat) : State :=
  { s with calendar := { s.calendar with enrolment := f s.calendar.enrolment } }

/-- The CLAMPED or OK reply of a request that clamps: what leads, then the clamp list (R172). -/
def clampReply (lead : List Field) (clamped : List Nat) : Reply :=
  ⟨if clamped = [] then .ok else .clamped, lead ++ .o8 clamped.length :: clamped.map Field.o8⟩

/-! ## Enrol Chart (R54) -/

/-- Grant: a chart that is not OFF is refused with EXISTS; otherwise +1 to the enrolment count (R53, R54). -/
def enrolGrant (c : Caller) (store : Nat) (pr : Process) (s : State) : State :=
  if (s.chart store pr).state = .off then
    { s.modEnrolment (· + 1) with engine := some (.enrolling c store pr (u16 c.order c.request.body 3)) }
  else finishOperation c (.bare .exists_) s

/-- ENROL_CHART. -/
def execEnrolChart (s : State) : Host.Outcome State Fault Refusal :=
  .next (withGranted .enrolChart (fun c => onChart c (enrolGrant c)) s)

/-- The chart an enrolment makes, from the OFF chart it found (R54). -/
def enrolledChart (lot day : Nat) (c : Chart) : Chart :=
  { c with state := .active, seedPending := true, currentLot := lot, enrolDay := day, lastDay := none, missed := 0 }

/-- Commit: the initial lot's check and +1, then the chart; or NOT_FOUND (R54). -/
def enrolCommit (s : State) : State :=
  match s.engine with
  | some (.enrolling c store pr lot) =>
    match joinLot pr lot s with
    | some s' =>
      finishOperation c ⟨.ok, [.o16 s.calendar.day]⟩ (s'.modChart store pr (enrolledChart lot s.calendar.day))
    | none => finishOperation c (.bare .notFound) (s.modEnrolment (· - 1))
  | _ => s

/-- ENROL_CHART_COMMIT. -/
def execEnrolChartCommit (s : State) : Host.Outcome State Fault Refusal := .next (enrolCommit s)

/-! ## Withdraw Chart (R55) -/

def withdrawGrant (c : Caller) (store : Nat) (pr : Process) (s : State) : State :=
  if (s.chart store pr).state = .off then finishOperation c (.bare .notEnrolled) s
  else { s with engine := some (.withdrawing c store pr) }

/-- WITHDRAW_CHART. -/
def execWithdrawChart (s : State) : Host.Outcome State Fault Refusal :=
  .next (withGranted .withdrawChart (fun c => onChart c (withdrawGrant c)) s)

/-- Commit: −1 to the lot, the removal of the chart's notices, −1 to the enrolment count, and the OFF values (R55,
R126). It is taken with its own withdrawal in flight alone, and so never between two offers of an evaluation's commit,
where R114 also names the removal (DEDUCED from R64 and R149, notes/assumptions/19.md). -/
def withdrawCommit (s : State) : State :=
  match s.engine with
  | some (.withdrawing c store pr) =>
    let counted := countDown pr (s.chart store pr).currentLot s
    let removed := { counted with notices := removeNotices store pr counted.notices }
    finishOperation c ⟨.ok, [.o8 (countNotices store pr s.notices)]⟩
      ((removed.modEnrolment (· - 1)).setChart store pr Chart.off)
  | _ => s

/-- WITHDRAW_CHART_COMMIT. -/
def execWithdrawChartCommit (s : State) : Host.Outcome State Fault Refusal := .next (withdrawCommit s)

/-! ## Suspend Chart and Resume Chart (R56, R57) -/

/-- The reply of Suspend Chart and Resume Chart: the state after the request. -/
def stateReply (st : ChartState) : Reply := ⟨.ok, [.o8 (chartStateNumber st)]⟩

def suspendedChart (c : Chart) : Chart := { c with state := .suspended, parked := none }

def suspendTake (c : Caller) (store : Nat) (pr : Process) (s : State) : State :=
  match (s.chart store pr).state with
  | .off => finishOperation c (.bare .notEnrolled) s
  | .active => finishOperation c (stateReply .suspended) (s.modChart store pr suspendedChart)
  | .overdue => finishOperation c (stateReply .suspended) (s.modChart store pr suspendedChart)
  | .suspended => finishOperation c (stateReply .suspended) s

/-- SUSPEND_CHART. -/
def execSuspendChart (s : State) : Host.Outcome State Fault Refusal :=
  .next (withGranted .suspendChart (fun c => onChart c (suspendTake c)) s)

/-- The effect of Restart Chart (R58). -/
def restartedChart (c : Chart) : Chart :=
  { c with seedPending := true, pvs := PerPv.tab fun _ _ => PvState.off, latched := 0 }

def resumedChart (restart : Bool) (c : Chart) : Chart :=
  let c' := { c with state := ChartState.active, missed := 0 }
  if restart then restartedChart c' else c'

def resumeWith (c : Caller) (restart : Bool) (store : Nat) (pr : Process) (s : State) : State :=
  match (s.chart store pr).state with
  | .off => finishOperation c (.bare .notEnrolled) s
  | .suspended => finishOperation c (stateReply .active) (s.modChart store pr (resumedChart restart))
  | .active => finishOperation c (stateReply .active) s
  | .overdue => finishOperation c (stateReply .overdue) s

/-- The restart option other than no (0) or yes (1) is refused with BAD_VALUE, as check 3 of R52 (R171). -/
def resumeTake (c : Caller) (store : Nat) (pr : Process) (s : State) : State :=
  match u8 c.request.body 3 with
  | 0 => resumeWith c false store pr s
  | 1 => resumeWith c true store pr s
  | _ => finishOperation c (.bare .badValue) s

/-- RESUME_CHART. -/
def execResumeChart (s : State) : Host.Outcome State Fault Refusal :=
  .next (withGranted .resumeChart (fun c => onChart c (resumeTake c)) s)

/-! ## Restart Chart and Set Hold (R58, R59) -/

/-- A change of a chart that is not OFF, answered OK; NOT_ENROLLED for an OFF chart. -/
def changeEnrolled (c : Caller) (f : Chart → Chart) (store : Nat) (pr : Process) (s : State) : State :=
  if (s.chart store pr).state = .off then finishOperation c (.bare .notEnrolled) s
  else finishOperation c (.bare .ok) (s.modChart store pr f)

/-- RESTART_CHART. -/
def execRestartChart (s : State) : Host.Outcome State Fault Refusal :=
  .next (withGranted .restartChart (fun c => onChart c (changeEnrolled c restartedChart)) s)

/-- The hold mask a Set Hold carries; bits beyond item 11 are reserved (R59, R171). -/
def carriedHold (c : Caller) : BitVec 12 := BitVec.ofNat 12 (u16 c.order c.request.body 3)

/-- SET_HOLD. -/
def execSetHold (s : State) : Host.Outcome State Fault Refusal :=
  .next (withGranted .setHold
    (fun c => onChart c (changeEnrolled c fun ch => { ch with hold := carriedHold c })) s)

/-! ## Set Instrument (R4, R49) -/

/-- A carried offset: sign octet plus 0 or minus 1, magnitude clamped to 31; minus 0 is +0 (R4). None for another sign
value. -/
def carriedOffset (sign magnitude : Nat) : Option Int :=
  match sign with
  | 0 => some (min magnitude 31 : Nat)
  | 1 => some (-((min magnitude 31 : Nat) : Int))
  | _ => none

/-- The settings a body carries from an offset on: resolution, then sign and magnitude of R, G, B (R172); none when
R4 refuses them. -/
def carriedInstrument (body : List Octet) : Option Instrument :=
  match resolutionOfNumber (u8 body 2), carriedOffset (u8 body 3) (u8 body 4), carriedOffset (u8 body 5) (u8 body 6),
    carriedOffset (u8 body 7) (u8 body 8) with
  | some r, some x, some y, some z => some ⟨r, ⟨x, y, z⟩⟩
  | _, _, _, _ => none

/-- The clamped channels R 0, G 1, B 2 (R4, R172). -/
def clampedChannels (body : List Octet) : List Nat :=
  allChannels.filterMap fun ch => if 31 < u8 body (4 + 2 * ch.number) then some ch.number else none

def instrumentTake (c : Caller) (s : State) : State :=
  let body := c.request.body
  let store := u16 c.order body 0
  if store < Config.stores then
    match carriedInstrument body with
    | some ins =>
      finishOperation c (clampReply [] (clampedChannels body))
        (s.setEntry store { s.entry store with instrument := ins })
    | none => finishOperation c (.bare .badValue) s
  else finishOperation c (.bare .badValue) s

/-- SET_INSTRUMENT. -/
def execSetInstrument (s : State) : Host.Outcome State Fault Refusal :=
  .next (withGranted .setInstrument instrumentTake s)

/-! ## Read Chart (R60, R176) -/

/-- The instrument settings' seven octets (R172). -/
def instrumentFields (ins : Instrument) : List Field :=
  .o8 (resolutionNumber ins.resolution) ::
    ins.offsets.toList.flatMap fun x => [.o8 (if x < 0 then 1 else 0), .o8 x.natAbs]

/-- A deviation list: count, then PV number and deviation of each pair (R171). -/
def deviationFields (l : List (Nat × Int)) : List Field :=
  .o8 l.length :: l.flatMap fun x => [.o8 x.1, .o16s x.2]

/-- The marks octet of a chart record (R176). -/
def chartMarks (c : Chart) : Nat :=
  bitAt 0 c.seedPending + bitAt 1 c.lastDay.isSome + bitAt 2 c.lastResult.isSome + bitAt 3 c.parked.isSome +
  bitAt 4 c.owed.condition + bitAt 5 c.owed.attendance + bitAt 6 c.owed.held

def pvFields (x : PvState) : List Field :=
  [.o16s (x.lastDeviation.getD 0), .o16s x.ewma, .o8 (signOctet x.runSign), .o8 x.runCount]

/-- The parked reading's octets, 0 when it is absent (R176). -/
def parkedFields : Option Parked → List Field
  | some pk => .o16 pk.lot :: .o16 pk.day :: pk.codes.list.map Field.o16
  | none => List.replicate 14 (.o16 0)

/-- The last result's octets, 0 with list count 0 when it is absent (R176). -/
def resultFields : Option LastResult → List Field
  | some r =>
    [.o16 r.day, .o8 r.code, .o8 (severityNumber r.severity), .o16 r.matched.toNat] ++ deviationFields r.deviations
  | none => [.o16 0, .o8 0, .o8 0, .o16 0, .o8 0]

/-- The chart record (R176). -/
def chartFields (c : Chart) : List Field :=
  [.o8 (chartStateNumber c.state), .o8 (chartMarks c), .o16 c.currentLot, .o8 c.lotRevision, .o16 c.enrolDay,
    .o16 (c.lastDay.getD 0), .o8 c.missed,
    .o16 (bitsOf 12 fun i => (c.pvs.list.map (·.lastDeviation.isSome)).getD i false).toNat] ++
  c.pvs.list.flatMap pvFields ++
  [.o16 c.hold.toNat, .o16 c.latched.toNat, .o16 c.evaluatedCount, .o16 c.staleCount, .o16 c.expiredCount] ++
  parkedFields c.parked ++ resultFields c.lastResult

/-- The reply of Read Chart: store, process, instrument settings, chart record (R60, R172). -/
def readChartReply (store : Nat) (pr : Process) (e : StoreEntry) : Reply :=
  ⟨.ok, [.o16 store, .o8 (processNumber pr)] ++ instrumentFields e.instrument ++ chartFields (e.chart pr)⟩

def readChartTake (c : Caller) (store : Nat) (pr : Process) (s : State) : State :=
  finishOperation c (readChartReply store pr (s.entry store)) s

/-- READ_CHART. -/
def execReadChart (s : State) : Host.Outcome State Fault Refusal :=
  .next (withGranted .readChart (fun c => onChart c (readChartTake c)) s)

/-! ## Restore Chart (R61, R62, R176)

A Restore Chart body: store, process, then the chart record from octet 3. -/

/-- Whether a value lies in lo..hi. -/
def inRange (lo hi x : Int) : Bool := decide (lo ≤ x) && decide (x ≤ hi)

/-- The first octet of a per-PV item in a Restore Chart body (R176). -/
def pvOffset (i : Nat) : Nat := 15 + 6 * i

/-- Whether the last deviation of a plotting value is marked present (R176). -/
def deviationMarked (order : ByteOrder) (body : List Octet) (i : Nat) : Bool := (u16 order body 13).testBit i

/-- A carried per-PV item is in range, and its run sign is 0 exactly when its run count is 0 (R61, R176). -/
def pvValid (order : ByteOrder) (body : List Octet) (i : Nat) : Bool :=
  (match signOfOctet (u8 body (pvOffset i + 4)) with
    | some sg => (sg == .zero) == (u8 body (pvOffset i + 5) == 0)
    | none => false) &&
  decide (u8 body (pvOffset i + 5) ≤ Config.maxRun) &&
  inRange (-32752) 32752 (s16 order body (pvOffset i + 2)) &&
  (!deviationMarked order body i || inRange (-2047) 2047 (s16 order body (pvOffset i)))

/-- A carried per-PV item. -/
def carriedPv (order : ByteOrder) (body : List Octet) (i : Nat) : PvState where
  lastDeviation := if deviationMarked order body i then some (s16 order body (pvOffset i)) else none
  ewma := s16 order body (pvOffset i + 2)
  runSign := (signOfOctet (u8 body (pvOffset i + 4))).getD .zero
  runCount := u8 body (pvOffset i + 5)

/-- The number of pairs that the body length fixes (R172). -/
def pairCount (body : List Octet) : Nat := (body.length - 132) / 3

/-- The carried deviation list of the last result (R176). -/
def carriedPairs (order : ByteOrder) (body : List Octet) : List (Nat × Int) :=
  (List.range (pairCount body)).map fun i => (u8 body (132 + 3 * i), s16 order body (133 + 3 * i))

/-- Ascending PV number without repeats, each 0..11 with a deviation in range (R46, R61). -/
def pairsValid (l : List (Nat × Int)) : Bool :=
  decide (l.Pairwise fun x y => x.1 < y.1) && l.all fun x => decide (x.1 ≤ 11) && inRange (-2047) 2047 x.2

/-- The carried last reading day (R176). -/
def carriedLastDay (order : ByteOrder) (body : List Octet) : Option Nat :=
  if bit8 body 4 1 then some (u16 order body 10) else none

/-- The carried parked reading (R176). -/
def carriedParked (order : ByteOrder) (body : List Octet) : Option Parked :=
  if bit8 body 4 3 then some ⟨u16 order body 97, u16 order body 99, items16 order body 101⟩ else none

/-- The carried last result (R176). -/
def carriedResult (order : ByteOrder) (body : List Octet) : Option LastResult :=
  if bit8 body 4 2 then
    some ⟨u16 order body 125, u8 body 127, (severityOfNumber (u8 body 128)).getD .info,
      BitVec.ofNat 16 (u16 order body 129), carriedPairs order body⟩
  else none

/-- The list count equals the n of the body length; a present result is in range, an absent one has count 0 (R61,
R176). -/
def resultValid (order : ByteOrder) (body : List Octet) : Bool :=
  u8 body 131 == pairCount body &&
  if bit8 body 4 2 then
    decide (u8 body 127 ≤ 63) && decide (u8 body 128 ≤ 3) && pairsValid (carriedPairs order body)
  else u8 body 131 == 0

/-- A present parked reading has a lot in 1..65535 and a day not earlier than a present L (R61). -/
def parkedValid (last : Option Nat) (parked : Option Parked) : Bool :=
  match parked with
  | none => true
  | some pk => pk.lot != 0 && !isStale last pk.day

/-- Check 2 of R61: the values and relations of the carried record. -/
def recordValid (order : ByteOrder) (body : List Octet) : Bool :=
  (match chartStateOfNumber (u8 body 3) with
    | some st => st != .off
    | none => false) &&
  (List.range 12).all (pvValid order body) &&
  resultValid order body &&
  parkedValid (carriedLastDay order body) (carriedParked order body)

/-- The carried chart record (R176). Reserved bits of the hold mask and the marks are ignored (R171). -/
def carriedChart (order : ByteOrder) (body : List Octet) : Chart where
  state := (chartStateOfNumber (u8 body 3)).getD .off
  seedPending := bit8 body 4 0
  currentLot := u16 order body 5
  lotRevision := u8 body 7
  enrolDay := u16 order body 8
  lastDay := carriedLastDay order body
  missed := u8 body 12
  pvs := PerPv.tab fun g c => carriedPv order body (pvNumber g c)
  hold := BitVec.ofNat 12 (u16 order body 87)
  latched := BitVec.ofNat 16 (u16 order body 89)
  lastResult := carriedResult order body
  owed := ⟨bit8 body 4 4, bit8 body 4 5, bit8 body 4 6⟩
  parked := carriedParked order body
  evaluatedCount := u16 order body 91
  staleCount := u16 order body 93
  expiredCount := u16 order body 95

/-- Whether an optional day does not exceed C. -/
def notAfter (day : Option Nat) (c : Nat) : Bool :=
  match day with
  | some d => decide (d ≤ c)
  | none => true

/-- The calendar check of R61: enrol day, a present L and the day of a present parked reading do not exceed C. -/
def calendarAdmits (c : Nat) (ch : Chart) : Bool :=
  decide (ch.enrolDay ≤ c) && notAfter ch.lastDay c && notAfter (ch.parked.map (·.day)) c

/-- Checks 2 to 4 of R61; the +1 to the enrolment count is one step with the calendar check. -/
def restoreGrant (c : Caller) (store : Nat) (pr : Process) (s : State) : State :=
  let carried := carriedChart c.order c.request.body
  if recordValid c.order c.request.body = false then finishOperation c (.bare .badValue) s
  else if (s.chart store pr).state ≠ .off then finishOperation c (.bare .exists_) s
  else if calendarAdmits s.calendar.day carried then
    { s.modEnrolment (· + 1) with engine := some (.restoring c store pr carried) }
  else finishOperation c (.bare .badValue) s

/-- RESTORE_CHART. -/
def execRestoreChart (s : State) : Host.Outcome State Fault Refusal :=
  .next (withGranted .restoreChart (fun c => onChart c (restoreGrant c)) s)

/-- Commit: the current lot's check and +1, then the record as carried; or NOT_FOUND (R62). -/
def restoreCommit (s : State) : State :=
  match s.engine with
  | some (.restoring c store pr carried) =>
    match joinLot pr carried.currentLot s with
    | some s' => finishOperation c (.bare .ok) (s'.setChart store pr carried)
    | none => finishOperation c (.bare .notFound) (s.modEnrolment (· - 1))
  | _ => s

/-- RESTORE_CHART_COMMIT. -/
def execRestoreChartCommit (s : State) : Host.Outcome State Fault Refusal := .next (restoreCommit s)

end Sys2Proof.Machine
end

