-- ==== Sys2Proof/Machine/Reference.lean ====
section
/-! DEFINITION. Reference: the requests of the Reference Table: staging, promotion, retirement and the reads of lots
and profiles (chapter 2, R175). Each takes the body of the request at the head of its port's queue. -/

namespace Sys2Proof.Machine

/-- A refusal with nothing after the status; no state changes (R173). -/
def refuse (st : Status) (s : State) : Reply × State := (.bare st, s)

/-! ## Lots -/

/-- A lot record's octets (R175): process, number, revision, presence, last usable day, densities, corrections, store
count. -/
def lotFields (pr : Process) (number revision : Nat) (v : LotValues) (count : Nat) : List Field :=
  [.o8 (processNumber pr), .o16 number, .o8 revision, .o8 (bitAt 0 v.lastUsable.isSome),
    .o16 (v.lastUsable.getD 0)] ++
  v.densities.list.map Field.o16 ++ v.corrections.list.map Field.o16s ++ [.o16 count]

/-- The lot values a Stage Lot carries, each clamped to its range (R23, R175). -/
def carriedLotValues (order : ByteOrder) (body : List Octet) : LotValues where
  densities := PerItem.tab fun p c => min Config.maxDensity ((items16 order body 7).item p c)
  corrections := PerPv.tab fun g c => clampInt (-500) 500 ((pvs16 order body 31).pv g c)
  lastUsable := if bit8 body 4 0 then some (u16 order body 5) else none

/-- The fields a Stage Lot clamps: densities 0..11, corrections 16..27, in ascending order (R23, R172). -/
def clampedLotFields (order : ByteOrder) (body : List Octet) : List Nat :=
  ((List.range 12).filter fun i => decide (Config.maxDensity < u16 order body (7 + 2 * i))) ++
  (((List.range 12).filter fun i => !inRange (-500) 500 (s16 order body (31 + 2 * i))).map (16 + ·))

/-- Stage Lot (R23). -/
def stageLotTake (p : Port) (order : ByteOrder) (body : List Octet) (s : State) : Reply × State :=
  match processOfNumber (u8 body 0) with
  | none => refuse .badValue s
  | some pr =>
    if u16 order body 1 = 0 then refuse .badValue s
    else
      (clampReply [] (clampedLotFields order body),
        s.modPort p fun ps => { ps with stagingLot := some ⟨pr, u16 order body 1, carriedLotValues order body⟩ })

/-- STAGE_LOT. -/
def execStageLot (p : Port) (s : State) : Host.Outcome State Fault Refusal :=
  .next (serveOwner .stageLot p (stageLotTake p) s)

/-- DMIN ≤ LOW ≤ HIGH on a channel (R25). -/
def channelConsistent (v : LotValues) (c : Channel) : Bool :=
  decide (v.densities.item .dmin c ≤ v.densities.item .low c) &&
  decide (v.densities.item .low c ≤ v.densities.item .high c)

/-- The first channel that fails the check of R25. -/
def inconsistentChannel (v : LotValues) : Option Channel := allChannels.find? fun c => !channelConsistent v c

/-- The current revision of a lot, 0 when it is not active (R26). -/
def currentRevision (lots : List LotRecord) (n : Nat) : Nat :=
  match findLot lots n with
  | some l => l.revision
  | none => 0

/-- The record a promotion makes: a new lot has revision 1 and store count 0; a replaced one has the next revision and
keeps its count (R18, R27). -/
def promotedLot (lots : List LotRecord) (st : StagedLot) : LotRecord :=
  match findLot lots st.number with
  | some l => ⟨st.number, nextRevision l.revision, st.values, l.storeCount⟩
  | none => ⟨st.number, 1, st.values, 0⟩

/-- The revision check of R26: the expected revision 0 passes for a lot that is not active, and n in 1..255 for a lot
that is active with revision n. -/
def revisionAdmits (lots : List LotRecord) (n expected : Nat) : Bool :=
  match findLot lots n with
  | none => expected == 0
  | some l => expected != 0 && expected == l.revision

/-- Whether a promotion would add a lot to a table that holds 16 (R26). -/
def tableFull (lots : List LotRecord) (n : Nat) : Bool :=
  (findLot lots n).isNone && decide (Config.lotsPerProcess ≤ lots.length)

/-- Promote Lot on a staging lot that is present: the checks of R25 and R26 in order, then the promotion of R27. -/
def promoteStaged (expected : Nat) (st : StagedLot) (s : State) : Reply × State :=
  let t := s.table st.process
  match inconsistentChannel st.values with
  | some ch => (⟨.inconsistent, [.o8 ch.number]⟩, s)
  | none =>
    if revisionAdmits t.lots st.number expected = false then
      (⟨.revisionMismatch, [.o8 (currentRevision t.lots st.number)]⟩, s)
    else if tableFull t.lots st.number then refuse .tableFull s
    else
      let l := promotedLot t.lots st
      (⟨.ok, [.o8 (processNumber st.process), .o16 st.number, .o8 l.revision]⟩,
        raiseAll .table (s.setTable st.process { t with lots := insertLot t.lots l }))

/-- Promote Lot (R25 to R27). -/
def promoteLotTake (p : Port) (_order : ByteOrder) (body : List Octet) (s : State) : Reply × State :=
  match (s.port p).stagingLot with
  | none => refuse .noStaging s
  | some st => promoteStaged (u8 body 0) st s

/-- PROMOTE_LOT. -/
def execPromoteLot (p : Port) (s : State) : Host.Outcome State Fault Refusal :=
  .next (serveOwner .promoteLot p (promoteLotTake p) s)

/-- The process and lot number a request names, when neither is refused (R30, R32). -/
def namedLot (order : ByteOrder) (body : List Octet) (i : Nat) : Option (Process × Nat) :=
  if u16 order body (i + 1) = 0 then none
  else (processOfNumber (u8 body i)).map fun pr => (pr, u16 order body (i + 1))

/-- Retire Lot (R30). -/
def retireLotTake (order : ByteOrder) (body : List Octet) (s : State) : Reply × State :=
  match namedLot order body 0 with
  | none => refuse .badValue s
  | some (pr, n) =>
    match findLot (s.table pr).lots n with
    | none => refuse .notFound s
    | some l =>
      if 0 < l.storeCount then (⟨.inUse, [.o16 l.storeCount]⟩, s)
      else
        (.bare .ok, raiseAll .table (s.setTable pr { s.table pr with lots := removeLot (s.table pr).lots n }))

/-- RETIRE_LOT. -/
def execRetireLot (p : Port) (s : State) : Host.Outcome State Fault Refusal :=
  .next (serveOwner .retireLot p retireLotTake s)

/-- Read Lot: source ACTIVE 0 or STAGING 1; any other is refused with BAD_VALUE (R32, R171). -/
def readLotTake (p : Port) (order : ByteOrder) (body : List Octet) (s : State) : Reply × State :=
  match u8 body 0 with
  | 0 =>
    match namedLot order body 1 with
    | none => refuse .badValue s
    | some (pr, n) =>
      match findLot (s.table pr).lots n with
      | none => refuse .notFound s
      | some l => (⟨.ok, lotFields pr l.number l.revision l.values l.storeCount⟩, s)
  | 1 =>
    match (s.port p).stagingLot with
    | none => refuse .noStaging s
    | some st => (⟨.ok, lotFields st.process st.number 0 st.values 0⟩, s)
  | _ => refuse .badValue s

/-- READ_LOT. -/
def execReadLot (p : Port) (s : State) : Host.Outcome State Fault Refusal :=
  .next (serveOwner .readLot p (readLotTake p) s)

/-- An item of List Lots (R33, R172). -/
def lotItem (l : LotRecord) : List Field :=
  [.o16 l.number, .o8 l.revision, .o8 (bitAt 0 l.values.lastUsable.isSome), .o16 (l.values.lastUsable.getD 0),
    .o16 l.storeCount]

/-- List Lots (R33). -/
def listLotsTake (_order : ByteOrder) (body : List Octet) (s : State) : Reply × State :=
  match processOfNumber (u8 body 0) with
  | none => refuse .badValue s
  | some pr => (⟨.ok, .o8 (s.table pr).lots.length :: (s.table pr).lots.flatMap lotItem⟩, s)

/-- LIST_LOTS. -/
def execListLots (p : Port) (s : State) : Host.Outcome State Fault Refusal :=
  .next (serveOwner .listLots p listLotsTake s)

/-! ## Profiles -/

/-- The five limits of a group (R175). -/
def limitFields (l : Limits) : List Field := [.o16 l.cl, .o16 l.al, .o16 l.sl, .o16 l.dl, .o16 l.rb]

/-- A profile record's octets (R175). -/
def profileFields (pr : Process) (revision : Nat) (v : ProfileValues) : List Field :=
  [.o8 (processNumber pr), .o8 revision] ++ v.limits.toList.flatMap limitFields ++
  [.o8 v.weight, .o8 v.runLength, .o8 v.overdueLimit,
    .o8 (bitAt 0 v.plotted.base + bitAt 1 v.plotted.speed + bitAt 2 v.plotted.contrast + bitAt 3 v.plotted.top)]

/-- A numeric field of Stage Profile: its value as carried and its range. -/
structure RangedField where
  carried : Nat
  low : Nat
  high : Nat
  deriving DecidableEq, Repr

def RangedField.value (x : RangedField) : Nat := clampNat x.low x.high x.carried

def RangedField.isClamped (x : RangedField) : Bool := decide (x.carried < x.low) || decide (x.high < x.carried)

/-- The limit fields of a Stage Profile body, k 0..4 for CL, AL, SL, DL, RB as the record lays them out (R20, R24,
R175). -/
def limitField (order : ByteOrder) (body : List Octet) (g : Group) (k low high : Nat) : RangedField :=
  ⟨u16 order body (2 + 10 * g.number + 2 * k), low, high⟩

def clField (order : ByteOrder) (body : List Octet) (g : Group) : RangedField := limitField order body g 0 1 1000
def alField (order : ByteOrder) (body : List Octet) (g : Group) : RangedField := limitField order body g 1 1 1000
def slField (order : ByteOrder) (body : List Octet) (g : Group) : RangedField := limitField order body g 2 1 2000
def dlField (order : ByteOrder) (body : List Octet) (g : Group) : RangedField := limitField order body g 3 1 1000
def rbField (order : ByteOrder) (body : List Octet) (g : Group) : RangedField := limitField order body g 4 0 1000
def weightField (body : List Octet) : RangedField := ⟨u8 body 42, 1, 16⟩
def runLengthField (body : List Octet) : RangedField := ⟨u8 body 43, 2, 15⟩
def overdueField (body : List Octet) : RangedField := ⟨u8 body 44, 1, 15⟩

/-- The profile values a Stage Profile carries, each clamped; the plotted groups are kept as carried (R24). -/
def carriedProfile (order : ByteOrder) (body : List Octet) : ProfileValues where
  limits := Groups.tab fun g =>
    ⟨(clField order body g).value, (alField order body g).value, (slField order body g).value,
      (dlField order body g).value, (rbField order body g).value⟩
  weight := (weightField body).value
  runLength := (runLengthField body).value
  overdueLimit := (overdueField body).value
  plotted := ⟨bit8 body 45 0, bit8 body 45 1, bit8 body 45 2, bit8 body 45 3⟩

/-- The numeric fields in the order of the clamp list: CL, AL, DL, SL, RB of the four groups, w, RL, overdue limit
(R24, R172). -/
def profileClampOrder (order : ByteOrder) (body : List Octet) : List RangedField :=
  allGroups.map (clField order body) ++ allGroups.map (alField order body) ++ allGroups.map (dlField order body) ++
  allGroups.map (slField order body) ++ allGroups.map (rbField order body) ++
  [weightField body, runLengthField body, overdueField body]

/-- The field numbers of the clamped fields, 0..22 (R172). -/
def clampedProfileFields (order : ByteOrder) (body : List Octet) : List Nat :=
  (List.range 23).filter fun i => ((profileClampOrder order body).map (·.isClamped)).getD i false

/-- Stage Profile (R24). -/
def stageProfileTake (p : Port) (order : ByteOrder) (body : List Octet) (s : State) : Reply × State :=
  match processOfNumber (u8 body 0) with
  | none => refuse .badValue s
  | some pr =>
    (clampReply [] (clampedProfileFields order body),
      s.modPort p fun ps => { ps with stagingProfile := some ⟨pr, carriedProfile order body⟩ })

/-- STAGE_PROFILE. -/
def execStageProfile (p : Port) (s : State) : Host.Outcome State Fault Refusal :=
  .next (serveOwner .stageProfile p (stageProfileTake p) s)

/-- The first group whose CL exceeds its AL (R28). -/
def inconsistentGroup (v : ProfileValues) : Option Group :=
  allGroups.find? fun g => decide ((v.limits.get g).al < (v.limits.get g).cl)

/-- Whether the plotted-groups set is empty (R28). -/
def plotsNothing (v : ProfileValues) : Bool :=
  !(v.plotted.base || v.plotted.speed || v.plotted.contrast || v.plotted.top)

/-- Checks 2 to 4 of R28 on a staging profile that is present, then the promotion. -/
def promoteStagedProfile (expected : Nat) (st : StagedProfile) (s : State) : Reply × State :=
  let t := s.table st.process
  match inconsistentGroup st.values with
  | some g => (⟨.inconsistent, [.o8 g.number]⟩, s)
  | none =>
    if plotsNothing st.values then (⟨.inconsistent, [.o8 4]⟩, s)
    else if expected = t.profile.revision then
      let r := nextRevision t.profile.revision
      (⟨.ok, [.o8 (processNumber st.process), .o8 r]⟩,
        raiseAll .table (s.setTable st.process { t with profile := ⟨st.values, r⟩ }))
    else (⟨.revisionMismatch, [.o8 t.profile.revision]⟩, s)

/-- Promote Profile (R28). -/
def promoteProfileTake (p : Port) (_order : ByteOrder) (body : List Octet) (s : State) : Reply × State :=
  match (s.port p).stagingProfile with
  | none => refuse .noStaging s
  | some st => promoteStagedProfile (u8 body 0) st s

/-- PROMOTE_PROFILE. -/
def execPromoteProfile (p : Port) (s : State) : Host.Outcome State Fault Refusal :=
  .next (serveOwner .promoteProfile p (promoteProfileTake p) s)

/-- Read Profile: source ACTIVE 0 or STAGING 1; any other is refused with BAD_VALUE (R34, R171). -/
def readProfileTake (p : Port) (_order : ByteOrder) (body : List Octet) (s : State) : Reply × State :=
  match u8 body 0 with
  | 0 =>
    match processOfNumber (u8 body 1) with
    | none => refuse .badValue s
    | some pr => (⟨.ok, profileFields pr (s.table pr).profile.revision (s.table pr).profile.values⟩, s)
  | 1 =>
    match (s.port p).stagingProfile with
    | none => refuse .noStaging s
    | some st => (⟨.ok, profileFields st.process 0 st.values⟩, s)
  | _ => refuse .badValue s

/-- READ_PROFILE. -/
def execReadProfile (p : Port) (s : State) : Host.Outcome State Fault Refusal :=
  .next (serveOwner .readProfile p (readProfileTake p) s)

end Sys2Proof.Machine
end

