-- ==== Sys2Proof/Machine/CalendarRequests.lean ====
section
/-! DEFINITION. CalendarRequests: the requests of the Calendar Unit (R128 to R131). -/

namespace Sys2Proof.Machine

/-- The calendar after a Close Day: D becomes C, C advances, the sweep starts at store 0 (R131). -/
def closedDay (cal : Calendar) : Calendar :=
  { cal with closingDay := cal.day, day := cal.day + 1, sweep := .sweeping, nextStore := 0 }

/-- Close Day (R131). It makes SWEEP a requester, and the arbiter takes that appearance here, while the Close Day is
still the head of its port's queue: with the engine free and no port present the first slice is granted at once
(R146, R148). The port's own next request appears after the answer, in `serveOwner` (notes/assumptions/14.md). -/
def closeDayTake (_order : ByteOrder) (_body : List Octet) (s : State) : Reply × State :=
  if s.calendar.sweep = .sweeping then refuse .sweepActive s
  else if s.calendar.day < Config.max16 then
    (⟨.started, [.o16 s.calendar.day]⟩, arbitrate { s with calendar := closedDay s.calendar })
  else refuse .calendarEnd s

/-- CLOSE_DAY. -/
def execCloseDay (p : Port) (s : State) : Host.Outcome State Fault Refusal :=
  .next (serveOwner .closeDay p closeDayTake s)

/-- Set Calendar (R128). -/
def setCalendarTake (order : ByteOrder) (body : List Octet) (s : State) : Reply × State :=
  if s.calendar.enrolment ≠ 0 then refuse .calendarLocked s
  else if s.calendar.sweep = .sweeping then refuse .sweepActive s
  else (⟨.ok, [.o16 (u16 order body 0)]⟩, { s with calendar := { s.calendar with day := u16 order body 0 } })

/-- SET_CALENDAR. -/
def execSetCalendar (p : Port) (s : State) : Host.Outcome State Fault Refusal :=
  .next (serveOwner .setCalendar p setCalendarTake s)

/-- Set Late Window (R129). -/
def setLateWindowTake (_order : ByteOrder) (body : List Octet) (s : State) : Reply × State :=
  let w := min (u8 body 0) Config.maxLateWindow
  (⟨if Config.maxLateWindow < u8 body 0 then .clamped else .ok, [.o8 w]⟩,
    { s with calendar := { s.calendar with lateWindow := w } })

/-- SET_LATE_WINDOW. -/
def execSetLateWindow (p : Port) (s : State) : Host.Outcome State Fault Refusal :=
  .next (serveOwner .setLateWindow p setLateWindowTake s)

/-- Read Calendar (R130). -/
def readCalendarTake (_order : ByteOrder) (_body : List Octet) (s : State) : Reply × State :=
  (⟨.ok,
    [.o16 s.calendar.day, .o8 s.calendar.lateWindow, .o8 (sweepStateNumber s.calendar.sweep),
      .o16 s.calendar.closingDay, .o16 s.calendar.nextStore, .o16 s.calendar.enrolment]⟩, s)

/-- READ_CALENDAR. -/
def execReadCalendar (p : Port) (s : State) : Host.Outcome State Fault Refusal :=
  .next (serveOwner .readCalendar p readCalendarTake s)

end Sys2Proof.Machine
end

