-- ==== Sys2Proof/Machine/Receive.lean ====
section
/-! DEFINITION. Receive: from the octets of LDI to an accepted request, a refusal, an ABORT or a drop (R152 to R158,
R160). -/

namespace Sys2Proof.Machine

/-- The content of a frame that has just begun: empty (R153). -/
def Content.empty : Content := ⟨[], 0, false⟩

/-- One more content octet; at most 640 are kept, and the frame is followed to its END (R153). -/
def Content.push (c : Content) (o : Octet) : Content :=
  ⟨if c.count < Config.contentMax then c.kept ++ [o] else c.kept, c.count + 1, false⟩

/-- A partial frame abandoned: a drop, with LINK at this port; the receiver goes on as given (R152, R153, R162). -/
def abandonFrame (next : Receiver) (ps : PortState) : PortState := countDrop { ps with receiver := next }

/-- What a frame that has reached END is, by steps 1 to 5 of R156. -/
inductive FrameOutcome where
  | dropped
  | request (tag : BitVec 2) (code : Octet) (body : List Octet)
  | abort
  deriving DecidableEq, Repr

/-- Steps 3 to 5 of R156 on a content whose header octet is as R154 left it: check sums, size, type. -/
def checkContent (count : Nat) (content : List Octet) : FrameOutcome :=
  let front := content.take (content.length - 2)
  if count ≤ Config.contentMax ∧ content.drop (content.length - 2) = checkOctets front ∧
      u16 .big content 2 + 6 = content.length then
    match headerType (content.headD 0) with
    | 0 => .request (headerTag (content.headD 0)) (content.getD 1 0) (front.drop 4)
    | 2 => .abort
    | _ => .dropped
  else .dropped

/-- Steps 1 to 5 of R156; the mark says that a corrected header is counted (R154). -/
def decodeContent (c : Content) : Bool × FrameOutcome :=
  if c.count < 6 then (false, .dropped)
  else
    match decodeHeader (c.kept.headD 0) with
    | .twoBits => (false, .dropped)
    | .taken h counted => (counted, checkContent c.count (h :: c.kept.tail))

/-- A refusal of steps 6 to 9 of R156: its reply, the status alone, joins the refusal list; with four refusals there
the frame is dropped in place of being refused (R158, R159). -/
def refuseFrame (tag : BitVec 2) (code : Octet) (st : Status) (ps : PortState) : PortState :=
  if ps.refusals.length < Config.refusalPlaces then
    startSending { ps with refusals := ps.refusals ++ [⟨tag, code, (Reply.bare st).octets ps.byteOrder⟩] }
  else countDrop ps

/-- Why steps 6 to 9 of R156 refuse a request frame, if they do. -/
def refusalOf (ps : PortState) (code : Octet) (body : List Octet) : Except Status RequestCode :=
  match codeOfOctet code with
  | none => .error .badCode
  | some k =>
    if hasRight ps.rights k = false then .error .noRight
    else if admitsLength k body.length = false then .error .badLength
    else if ps.places.length < Config.queuePlaces then .ok k
    else .error .busy

/-- Steps 6 to 10 of R156: a refusal, or a place at the tail of the queue; the request may make the port a requester
(R145). -/
def acceptRequest (p : Port) (tag : BitVec 2) (code : Octet) (body : List Octet) (s : State) : State :=
  match refusalOf (s.port p) code body with
  | .error st => s.modPort p (refuseFrame tag code st)
  | .ok k => arbitrate (s.modPort p fun ps => { ps with places := ps.places ++ [⟨⟨tag, k, body⟩, .waiting⟩] })

/-- A place whose request has not started is answered ABORTED (R160). -/
def abortPlace (pl : Place) : Place :=
  match pl.progress with
  | .waiting => { pl with progress := .answered (replyFrame .big pl.request (Reply.bare .aborted)) }
  | .inFlight => pl
  | .answered _ => pl

/-- An ABORT frame at a port: every request that has not started is answered ABORTED, in acceptance order (R160). -/
def abortQueue (ps : PortState) : PortState := startSending { ps with places := ps.places.map abortPlace }

/-- The header decode's count, with the receiver outside the frame that has ended (R153, R154). -/
def leaveFrame (counted : Bool) (ps : PortState) : PortState :=
  if counted then countCorrected { ps with receiver := .looking } else { ps with receiver := .looking }

/-- A frame that has reached END (R156). -/
def endFrame (p : Port) (c : Content) (s : State) : State :=
  let out := decodeContent c
  let s' := s.modPort p (leaveFrame out.1)
  match out.2 with
  | .dropped => s'.modPort p countDrop
  | .request tag code body => acceptRequest p tag code body s'
  | .abort => s'.modPort p abortQueue

/-- One octet received at a port (the table of R153). While the receiver waits for LDI to be high no octet is
received (R152, R161). -/
def receiveOctet (p : Port) (o : Octet) (s : State) : State :=
  match (s.port p).receiver with
  | .looking =>
    if o = Config.startOctet then s.modPort p fun ps => { ps with receiver := .inFrame Content.empty } else s
  | .waitHigh _ => s
  | .inFrame c =>
    if o = Config.startOctet then s.modPort p (abandonFrame (.inFrame Content.empty))
    else if c.escaped then
      if needsEscape (o ^^^ Config.escapeMask) then
        s.modPort p fun ps => { ps with receiver := .inFrame (c.push (o ^^^ Config.escapeMask)) }
      else s.modPort p (abandonFrame .looking)
    else if o = Config.endOctet then endFrame p c s
    else if o = Config.escapeOctet then
      s.modPort p fun ps => { ps with receiver := .inFrame { c with escaped := true } }
    else s.modPort p fun ps => { ps with receiver := .inFrame (c.push o) }

/-- Octets received one after another. -/
def receiveOctets (p : Port) : List Octet → State → State
  | [], s => s
  | o :: rest, s => receiveOctets p rest (receiveOctet p o s)

end Sys2Proof.Machine
end

