-- ==== Sys2Proof/Machine/Link.lean ====
section
/-! DEFINITION. Link: device reset and its release, link reset, the receiver's events, frames, ABORT and the end of a
reply (R151 to R162, R169). While RESETN is low every port ignores LCK and LDI (R151). -/

namespace Sys2Proof.Machine

/-- DEVICE_RESET: RESETN low, or power-up: all work in progress is dropped and every item takes its device-reset value
(R169). The queue of commands is the model's and stays. -/
def execDeviceReset (s : State) : Host.Outcome State Fault Refusal := .next { State.reset with pending := s.pending }

/-- A port at the release of RESETN: the straps are its rights, and the receiver looks for the first START (R151,
R169). -/
def releasePort (r : Rights) (ps : PortState) : PortState := { ps with rights := r, receiver := .looking }

/-- RESET_RELEASE: each port latches its straps (R151). Without RESETN low before it there is no release. -/
def execResetRelease (a b c : Rights) (s : State) : Host.Outcome State Fault Refusal :=
  .next
    (if s.resetHeld then
      { s with
        resetHeld := false
        ports := ⟨releasePort a s.ports.a, releasePort b s.ports.b, releasePort c s.ports.c⟩ }
    else s)

/-- A line event at a port; none is taken while RESETN is low (R151). -/
def onLine (f : State → State) (s : State) : State := if s.resetHeld then s else f s

/-- The port's items at a link reset (R161, R169): rights, posting window and link counters are kept. -/
def linkResetPort (ps : PortState) : PortState :=
  { ps with
    receiver := .waitHigh true
    places := []
    refusals := []
    sending := none
    stagingLot := none
    stagingProfile := none
    byteOrder := .big
    quota := 2
    flags := FlagSet.none
    enables := FlagSet.none }

/-- A caller whose reply is one to discard (R150). -/
def Caller.discard (c : Caller) : Caller := { c with discardReply := true }

/-- The operation in flight after a link reset of a port: it completes and commits, and its reply is discarded when
it serves that port (R150, R161). -/
def discardFor (p : Port) : Operation → Operation
  | .granted c => .granted (if c.port = p then c.discard else c)
  | .evaluating c st => .evaluating (if c.port = p then c.discard else c) st
  | .enrolling c n pr lot => .enrolling (if c.port = p then c.discard else c) n pr lot
  | .withdrawing c n pr => .withdrawing (if c.port = p then c.discard else c) n pr
  | .restoring c n pr ch => .restoring (if c.port = p then c.discard else c) n pr ch
  | .slice i st => .slice i st

/-- A link reset at a port: once in a low of LDI (R161). -/
def linkReset (p : Port) (s : State) : State :=
  match (s.port p).receiver with
  | .waitHigh true => s
  | _ => { s.modPort p linkResetPort with engine := s.engine.map (discardFor p) }

/-- LINK_RESET. -/
def execLinkReset (p : Port) (s : State) : Host.Outcome State Fault Refusal := .next (onLine (linkReset p) s)

/-- The receiver after a partial frame is abandoned (R152, R153). -/
def receiverAfter : AbandonCause → Receiver
  | .start => .inFrame Content.empty
  | .escapeThenStart => .inFrame Content.empty
  | .badEscape => .looking
  | .octetInError => .waitHigh false

/-- A partial frame abandoned at a port; outside a frame there is none (R153). -/
def frameAbandoned (p : Port) (cause : AbandonCause) (s : State) : State :=
  match (s.port p).receiver with
  | .inFrame _ => s.modPort p (abandonFrame (receiverAfter cause))
  | _ => s

/-- FRAME_ABANDONED. -/
def execFrameAbandoned (p : Port) (cause : AbandonCause) (s : State) : Host.Outcome State Fault Refusal :=
  .next (onLine (frameAbandoned p cause) s)

/-- FRAME_RECEIVED: the octets after START, then END (R153, R156). -/
def execFrameReceived (p : Port) (octets : List Octet) (s : State) : Host.Outcome State Fault Refusal :=
  .next (onLine (receiveOctets p (octets ++ [Config.endOctet])) s)

/-- An ABORT frame that has passed steps 1 to 5 of R156 with its header as received, and so ends (R160). -/
def abortFrame (p : Port) (s : State) : State :=
  match (s.port p).receiver with
  | .inFrame _ => s.modPort p fun ps => abortQueue { ps with receiver := .looking }
  | _ => s

/-- ABORT_FRAME. -/
def execAbortFrame (p : Port) (s : State) : Host.Outcome State Fault Refusal := .next (onLine (abortFrame p) s)

/-- The last octet of the frame being sent has left LDO: a refusal leaves its list, a reply frees its place, and the
next frame begins (R158). -/
def replySent (ps : PortState) : PortState :=
  match ps.sending with
  | some ⟨.refusal, _⟩ => startSending { ps with sending := none, refusals := ps.refusals.tail }
  | some ⟨.reply, _⟩ => startSending { ps with sending := none, places := ps.places.tail }
  | none => ps

/-- REPLY_SENT. -/
def execReplySent (p : Port) (s : State) : Host.Outcome State Fault Refusal := .next (onLine (·.modPort p replySent) s)

/-- FRAME_START: a START octet received (R153). -/
def execFrameStart (p : Port) (s : State) : Host.Outcome State Fault Refusal :=
  .next (onLine (receiveOctet p Config.startOctet) s)

/-- An octet whose stop period is low: discarded without count outside a frame, a drop inside one; the receiver waits
for LDI to be high (R152). -/
def octetInError (ps : PortState) : PortState :=
  match ps.receiver with
  | .looking => { ps with receiver := .waitHigh false }
  | .inFrame _ => abandonFrame (.waitHigh false) ps
  | .waitHigh _ => ps

/-- OCTET_IN_ERROR. -/
def execOctetInError (p : Port) (s : State) : Host.Outcome State Fault Refusal :=
  .next (onLine (·.modPort p octetInError) s)

/-- LDI has been high for one period: the receiver looks for a start period again (R152, R161). -/
def receiverResumes (ps : PortState) : PortState :=
  match ps.receiver with
  | .waitHigh _ => { ps with receiver := .looking }
  | .looking => ps
  | .inFrame _ => ps

/-- RECEIVER_RESUMES. -/
def execReceiverResumes (p : Port) (s : State) : Host.Outcome State Fault Refusal :=
  .next (onLine (·.modPort p receiverResumes) s)

end Sys2Proof.Machine
end

