-- ==== Sys2Proof/Machine/NoticeRequests.lean ====
section
/-! DEFINITION. NoticeRequests: List Notices and Acknowledge Notice (R121 to R125, R176). -/

namespace Sys2Proof.Machine

/-- The entries after the entry of an id, when it is held. -/
def entriesAfter (id : Nat) : List Notice → Option (List Notice)
  | [] => none
  | e :: rest => if e.id = id then some rest else entriesAfter id rest

/-- Where a list starts, and the restarted mark (R121). -/
def listStart (after : Nat) (entries : List Notice) : List Notice × Bool :=
  if after = 0 then (entries, false)
  else
    match entriesAfter after entries with
    | some rest => (rest, false)
    | none => (entries, true)

/-- The class value: the missed count for ATTENDANCE, the parked lot for HELD, 0 for CONDITION (R176). -/
def classValue (e : Notice) : Nat :=
  match e.cls with
  | .condition => 0
  | .attendance => e.missed.getD 0
  | .held => e.parkedLot.getD 0

/-- A notice entry's octets (R176). -/
def noticeFields (e : Notice) : List Field :=
  [.o16 e.id, .o8 (noticeClassNumber e.cls), .o8 (noticeKindNumber e.kind), .o16 e.store,
    .o8 (processNumber e.process), .o16 e.firstDay, .o16 e.lastDay, .o8 e.occurrences,
    .o8 (severityNumber e.severity), .o8 e.peakCode, .o8 e.latestCode, .o16 e.matched.toNat, .o16 (classValue e)] ++
  deviationFields e.deviations

/-- List Notices (R121, R122). -/
def listNoticesTake (order : ByteOrder) (body : List Octet) (s : State) : Reply × State :=
  let most := u8 body 2
  if 1 ≤ most ∧ most ≤ 8 then
    let start := listStart (u16 order body 0) s.notices.entries
    let listed := start.1.take most
    (⟨.ok,
      [.o8 s.notices.entries.length, .o8 (bitAt 0 (decide (most < start.1.length)) + bitAt 1 start.2),
        .o8 listed.length] ++ listed.flatMap noticeFields⟩, s)
  else refuse .badValue s

/-- LIST_NOTICES. -/
def execListNotices (p : Port) (s : State) : Host.Outcome State Fault Refusal :=
  .next (serveOwner .listNotices p listNoticesTake s)

/-- Acknowledge Notice (R123). -/
def acknowledgeTake (order : ByteOrder) (body : List Octet) (s : State) : Reply × State :=
  let id := u16 order body 0
  let seen := u8 body 2
  if seen = 0 then refuse .badValue s
  else
    match s.notices.entries.find? fun e => e.id == id with
    | none => refuse .notFound s
    | some e =>
      if e.occurrences = seen then
        (⟨.ok, [.o16 id]⟩,
          { s with notices := { s.notices with entries := s.notices.entries.filter fun x => x.id != id } })
      else (⟨.changed, [.o8 e.occurrences, .o16 e.lastDay]⟩, s)

/-- ACKNOWLEDGE_NOTICE. -/
def execAcknowledgeNotice (p : Port) (s : State) : Host.Outcome State Fault Refusal :=
  .next (serveOwner .acknowledgeNotice p acknowledgeTake s)

end Sys2Proof.Machine
end

