-- ==== Sys2Proof/Machine/Patterns.lean ====
section
/-! DEFINITION. Patterns: the requests of the Pattern Table (R94 to R98, R175). -/

namespace Sys2Proof.Machine

/-- The expected values a Write Pattern carries, when every one of the sixteen is in its range (R95). -/
def carriedExpectPv (body : List Octet) (g : Group) (c : Channel) : Option Expect :=
  expectOfNumber (u8 body (4 + pvNumber g c))

def carriedExpectSpread (body : List Octet) (g : Group) : Option Spread := spreadOfNumber (u8 body (16 + g.number))

/-- Check 3 of R95. -/
def expectedValid (body : List Octet) : Bool :=
  (allPvs.all fun gc => (carriedExpectPv body gc.1 gc.2).isSome) &&
  allGroups.all fun g => (carriedExpectSpread body g).isSome

/-- The severity of a number that the clamp has brought into 0..3 (R95). -/
def clampedSeverity (n : Nat) : Severity := (severityOfNumber n).getD .stop

/-- The entry a Write Pattern carries, code and severity clamped (R95). -/
def carriedPattern (order : ByteOrder) (body : List Octet) (mode : Persistence) (generation : Nat) : PatternEntry where
  enabled := bit8 body 1 0
  care := BitVec.ofNat 16 (u16 order body 2)
  expectPv := PerPv.tab fun g c => (carriedExpectPv body g c).getD .none
  expectSpread := Groups.tab fun g => (carriedExpectSpread body g).getD .absent
  mode := mode
  code := clampNat 1 59 (u8 body 21)
  severity := clampedSeverity (u8 body 22)
  generation := generation

/-- The clamped fields: condition code 0, severity 1 (R96, R172). -/
def clampedPatternFields (body : List Octet) : List Nat :=
  (if clampNat 1 59 (u8 body 21) = u8 body 21 then [] else [0]) ++ (if 3 < u8 body 22 then [1] else [])

/-- The write generation after one: 255 is followed by 0 (R96). -/
def nextGeneration (g : Nat) : Nat := (g + 1) % 256

/-- Write Pattern (R95, R96). -/
def writePatternTake (order : ByteOrder) (body : List Octet) (s : State) : Reply × State :=
  if h : u8 body 0 < 16 then
    match persistenceOfNumber (u8 body 20) with
    | none => refuse .badValue s
    | some mode =>
      if expectedValid body then
        let generation := nextGeneration (s.patterns[u8 body 0]).generation
        (clampReply [.o8 (u8 body 0), .o8 generation] (clampedPatternFields body),
          raiseAll .table
            { s with patterns := s.patterns.set (u8 body 0) (carriedPattern order body mode generation) })
      else refuse .badValue s
  else refuse .badValue s

/-- WRITE_PATTERN. -/
def execWritePattern (p : Port) (s : State) : Host.Outcome State Fault Refusal :=
  .next (serveOwner .writePattern p writePatternTake s)

/-- A pattern entry's octets (R175). -/
def patternFields (n : Nat) (e : PatternEntry) : List Field :=
  [.o8 n, .o8 (bitAt 0 e.enabled), .o16 e.care.toNat] ++
  (e.expectPv.list.map fun x => Field.o8 (expectNumber x)) ++
  (e.expectSpread.toList.map fun x => Field.o8 (spreadNumber x)) ++
  [.o8 (persistenceNumber e.mode), .o8 e.code, .o8 (severityNumber e.severity), .o8 e.generation]

/-- Read Pattern (R98). -/
def readPatternTake (_order : ByteOrder) (body : List Octet) (s : State) : Reply × State :=
  if h : u8 body 0 < 16 then (⟨.ok, patternFields (u8 body 0) s.patterns[u8 body 0]⟩, s)
  else refuse .badValue s

/-- READ_PATTERN. -/
def execReadPattern (p : Port) (s : State) : Host.Outcome State Fault Refusal :=
  .next (serveOwner .readPattern p readPatternTake s)

end Sys2Proof.Machine
end

