-- ==== Sys2Proof/Machine/PortRequests.lean ====
section
/-! DEFINITION. PortRequests: the requests that the Port Interface answers itself (R163 to R168). -/

namespace Sys2Proof.Machine

/-- The seven window sizes (R163). -/
def windowSizes : List Nat := [16, 32, 64, 128, 256, 512, 1024]

/-- A base with its low bits cleared to the next lower multiple of the size (R163). -/
def alignBase (base size : Nat) : Nat := base - base % size

/-- Set Window: the named port's window is replaced (R163). -/
def setWindowTake (order : ByteOrder) (body : List Octet) (s : State) : Reply × State :=
  let base := u16 order body 1
  let size := u16 order body 3
  match portOfNumber (u8 body 0) with
  | none => refuse .badValue s
  | some q =>
    if size ∈ windowSizes ∧ base < Config.stores then
      (⟨.ok, [.o8 (portNumber q), .o16 (alignBase base size), .o16 size]⟩,
        s.modPort q fun ps => { ps with window := ⟨alignBase base size, size⟩ })
    else refuse .badValue s

/-- SET_WINDOW. -/
def execSetWindow (p : Port) (s : State) : Host.Outcome State Fault Refusal :=
  .next (serveOwner .setWindow p setWindowTake s)

/-- Set Port Options (R164). -/
def setPortOptionsTake (p : Port) (_order : ByteOrder) (body : List Octet) (s : State) : Reply × State :=
  match byteOrderOfNumber (u8 body 0) with
  | none => refuse .badValue s
  | some bo =>
    let q := clampNat 1 8 (u8 body 1)
    (⟨if q = u8 body 1 then .ok else .clamped, [.o8 (byteOrderNumber bo), .o8 q]⟩,
      s.modPort p fun ps => { ps with byteOrder := bo, quota := q })

/-- SET_PORT_OPTIONS. -/
def execSetPortOptions (p : Port) (s : State) : Host.Outcome State Fault Refusal :=
  .next (serveOwner .setPortOptions p (setPortOptionsTake p) s)

/-- Read Flags (R166). -/
def readFlagsTake (p : Port) (_order : ByteOrder) (_body : List Octet) (s : State) : Reply × State :=
  let ps := s.port p
  (⟨.ok, [.o8 (shownFlags ps).number, .o8 ps.enables.number, .o16 ps.correctedHeaders, .o16 ps.drops]⟩, s)

/-- READ_FLAGS. -/
def execReadFlags (p : Port) (s : State) : Host.Outcome State Fault Refusal :=
  .next (serveOwner .readFlags p (readFlagsTake p) s)

/-- The flags as shown by a port, as the reply of Clear Flags and Set Flag Enables (R166). -/
def shownReply (ps : PortState) : Reply := ⟨.ok, [.o8 (shownFlags ps).number]⟩

/-- A change of the port's flags or enables, answered with the flags as then shown (R166). -/
def changeFlags (p : Port) (f : PortState → PortState) (s : State) : Reply × State :=
  (shownReply (f (s.port p)), s.modPort p f)

/-- The flag set a body carries (R172). -/
def carriedFlags (body : List Octet) : FlagSet := FlagSet.ofOctet (body.getD 0 0)

/-- Clear Flags (R166). -/
def clearFlagsTake (p : Port) (_order : ByteOrder) (body : List Octet) (s : State) : Reply × State :=
  changeFlags p (fun ps => { ps with flags := ps.flags.diff (carriedFlags body) }) s

/-- CLEAR_FLAGS. -/
def execClearFlags (p : Port) (s : State) : Host.Outcome State Fault Refusal :=
  .next (serveOwner .clearFlags p (clearFlagsTake p) s)

/-- Set Flag Enables (R166). -/
def setFlagEnablesTake (p : Port) (_order : ByteOrder) (body : List Octet) (s : State) : Reply × State :=
  changeFlags p (fun ps => { ps with enables := carriedFlags body }) s

/-- SET_FLAG_ENABLES. -/
def execSetFlagEnables (p : Port) (s : State) : Host.Outcome State Fault Refusal :=
  .next (serveOwner .setFlagEnables p (setFlagEnablesTake p) s)

/-- POST in bit 0, EDIT 1, ACK 2, CAL 3 (R172). -/
def rightsNumber (r : Rights) : Nat := bitAt 0 r.post + bitAt 1 r.edit + bitAt 2 r.ack + bitAt 3 r.cal

/-- Identify (R168). -/
def identifyTake (p : Port) (_order : ByteOrder) (_body : List Octet) (s : State) : Reply × State :=
  (⟨.ok,
    [.o16 Config.partCode, .o8 Config.partRevision, .o8 (portNumber p), .o8 (rightsNumber (s.port p).rights),
      .o16 Config.stores, .o8 Config.lotsPerProcess, .o8 Config.patternEntries, .o8 Config.noticeEntries,
      .o8 Config.queuePlaces]⟩, s)

/-- IDENTIFY. -/
def execIdentify (p : Port) (s : State) : Host.Outcome State Fault Refusal :=
  .next (serveOwner .identify p (identifyTake p) s)

end Sys2Proof.Machine
end

