-- ==== Sys2Proof/Machine/Sweep.lean ====
section
/-! DEFINITION. Sweep: the day-close sweep's slices (R132 to R139). A slice is one engine operation. Inside it the
owner blocks keep taking requests (R133); its inner points are the boundaries of `visitPart`, reached with the extent
`part` (notes/assumptions/4.md). -/

namespace Sys2Proof.Machine

/-! ## The four steps of a visit -/

/-- Steps 2 and 3 of a parked retry, on the snapshots that came with the lot answer: the calendar question, and the
late-window recheck. None when the reading is too late and is discarded (R134). -/
def recheck (rd : Reading) (lot : LotRecord) (profile : Profile) (s : State) : Option Evaluation × State :=
  if rd.day < lowestDay s.calendar.day s.calendar.lateWindow then
    (none, s.modChart rd.store rd.process fun c =>
      { c with parked := none, staleCount := satInc16 c.staleCount })
  else (some (evaluate rd s.calendar.day s.calendar.lateWindow lot profile s), s)

/-- The reading of a parked slot. -/
def parkedReading (store : Nat) (pr : Process) (pk : Parked) : Reading := ⟨store, pr, pk.lot, pk.day, pk.codes⟩

/-- The start of a parked retry: the lot question, with the snapshots, then the recheck. None when the step ends here:
the lot is not active, or the reading is too late (R134, steps 1 to 3). -/
def retryStart (store : Nat) (pr : Process) (pk : Parked) (s : State) : Option Evaluation × State :=
  match findLot (s.table pr).lots pk.lot with
  | none => (none, s)
  | some lot => recheck (parkedReading store pr pk) lot (s.table pr).profile s

/-- Whether a miss is counted for D (R135). -/
def countsMiss (d : Nat) (c : Chart) : Bool :=
  decide (c.enrolDay ≤ d) && (match c.lastDay with | none => true | some l => decide (l < d))

/-- The missed count after a counted miss (R135). -/
def missedPlus (c : Chart) : Nat := min Config.max8 (c.missed + 1)

/-- The chart after a counted miss: an ACTIVE chart at the overdue limit becomes OVERDUE (R135, R136). -/
def missedChart (limit : Nat) (c : Chart) : Chart :=
  { c with
    missed := missedPlus c
    state := if c.state = .active ∧ limit ≤ missedPlus c then .overdue else c.state }

/-- Step 2, and step 3 up to its offer: the miss count, and after a counted miss the limit question. The missed count
of the OVERDUE offer that is due, if one is (R135, R136). -/
def countMiss (store : Nat) (pr : Process) (s : State) : Option Nat × State :=
  let c := s.chart store pr
  if countsMiss s.calendar.closingDay c then
    let c' := missedChart (s.table pr).profile.values.overdueLimit c
    (if c'.state = .overdue then some c'.missed else none, s.setChart store pr c')
  else (none, s)

/-- The OVERDUE offer of step 3 (R136). -/
def offerOverdue (store : Nat) (pr : Process) (missed : Nat) (s : State) : State :=
  (offerOrOwe (overdueOffer store pr s.calendar.closingDay missed) s).2

/-- Steps 2 and 3: the miss count, and after a counted miss the overdue step (R135, R136). -/
def missStep (store : Nat) (pr : Process) (s : State) : State :=
  match countMiss store pr s with
  | (some missed, s') => offerOverdue store pr missed s'
  | (none, s') => s'

/-- The rebuilt offer of an owed class, when the class still applies (R137). -/
def rebuiltOffer (store : Nat) (pr : Process) (d : Nat) (c : Chart) : NoticeClass → Option Offer
  | .condition =>
    match c.lastResult with
    | some r => if r.code = 0 then none else some (driftOffer store pr r)
    | none => none
  | .attendance =>
    match c.state, c.lastDay with
    | .overdue, _ => some (overdueOffer store pr d c.missed)
    | .active, some l => some (resumedOffer store pr l c.missed)
    | _, _ => none
  | .held =>
    match c.parked with
    | some pk => some (heldOffer store pr pk.day pk.lot)
    | none => none

/-- Clears a chart's owed mark of a class. -/
def clearOwed (store : Nat) (pr : Process) (cls : NoticeClass) (s : State) : State :=
  s.modChart store pr fun c => { c with owed := c.owed.clear cls }

/-- Step 4 for one class: a set mark is re-issued, and cleared unless the offer is refused (R137, R138). -/
def owedStep (store : Nat) (pr : Process) (cls : NoticeClass) (s : State) : State :=
  let c := s.chart store pr
  if c.owed.get cls then
    match rebuiltOffer store pr s.calendar.closingDay c cls with
    | none => clearOwed store pr cls s
    | some o =>
      match takeOffer o s with
      | (.refused, s') => s'
      | (.merged _, s') => clearOwed store pr cls s'
      | (.inserted _, s') => clearOwed store pr cls s'
  else s

/-! ## A visit run to its end -/

/-- Step 4 from a class on, in the order CONDITION, ATTENDANCE, HELD (R137). -/
def finishOwed (store : Nat) (pr : Process) (cls : NoticeClass) (s : State) : State :=
  match cls with
  | .condition => owedStep store pr .held (owedStep store pr .attendance (owedStep store pr .condition s))
  | .attendance => owedStep store pr .held (owedStep store pr .attendance s)
  | .held => owedStep store pr .held s

/-- Steps 2 to 4. -/
def finishMiss (store : Nat) (pr : Process) (s : State) : State :=
  finishOwed store pr .condition (missStep store pr s)

/-- The evaluation of a retry from one of its stages to its end; there is no reply (R93, R134). -/
def finishRetry (st : EvalStage) (s : State) : State := (runEval st s).2

/-- A visit from the outcome of the retry's start on. -/
def visitFrom (store : Nat) (pr : Process) (start : Option Evaluation × State) : State :=
  match start with
  | (none, s) => finishMiss store pr s
  | (some ev, s) => finishMiss store pr (finishRetry (.computed ev) s)

/-- A visit from the chart on; OFF and SUSPENDED charts are passed over (R132). -/
def visitChart (store : Nat) (pr : Process) (s : State) : State :=
  let c := s.chart store pr
  if c.state = .off ∨ c.state = .suspended then s
  else
    match c.parked with
    | none => finishMiss store pr s
    | some pk => visitFrom store pr (retryStart store pr pk s)

/-- A visit from any of its stages on. -/
def finishVisit (store : Nat) (pr : Process) (st : VisitStage) (s : State) : State :=
  match st with
  | .arrive => visitChart store pr s
  | .snapped rd lot profile => visitFrom store pr (recheck rd lot profile s)
  | .retry rst => finishMiss store pr (finishRetry rst s)
  | .miss => finishMiss store pr s
  | .overdue missed => finishOwed store pr .condition (offerOverdue store pr missed s)
  | .owed cls => finishOwed store pr cls s

/-! ## A slice -/

/-- The store of chart i, 0..15, of a slice: eight stores from the next store upward (R132). -/
def sliceStore (s : State) (i : Nat) : Nat := s.calendar.nextStore + i / 2

/-- The film chart before the paper chart (R132). -/
def sliceProcess (i : Nat) : Process := if i % 2 = 0 then .f else .p

/-- The number of charts of a slice. -/
def sliceCharts : Nat := 2 * Config.sliceStores

/-- The next store after a slice: advanced by eight, or the end of the sweep with SWEEP at all ports (R132, R139,
R148). -/
def advanceSweep (s : State) : State :=
  let next := s.calendar.nextStore + Config.sliceStores
  if next < Config.stores then { s with calendar := { s.calendar with nextStore := next } }
  else raiseAll .sweep { s with calendar := { s.calendar with sweep := .idle, nextStore := 0 } }

/-- The end of a slice: the grant passes on, the pointer to A, and the next store advances before the next grant
decision (R148). -/
def endSlice (s : State) : State :=
  arbitrate (advanceSweep { s with engine := none, arbiter := ⟨.port .a, none, 0⟩ })

/-- Visits the charts of a slice from one on. -/
def visitCharts (first count : Nat) (s : State) : State :=
  (List.range' first count).foldl (fun t i => visitChart (sliceStore t i) (sliceProcess i) t) s

/-- The slice in flight run to its end (R132). -/
def sliceStage (s : State) : State :=
  match s.engine with
  | some (.slice i st) =>
    if i < sliceCharts then
      endSlice (visitCharts (i + 1) (sliceCharts - (i + 1)) (finishVisit (sliceStore s i) (sliceProcess i) st s))
    else endSlice s
  | _ => s

/-! ## A slice up to its next inner point -/

/-- A retry up to its next inner point; none when the retry is over. -/
def retryPart (st : EvalStage) (s : State) : Option EvalStage × State :=
  match evalPart st s with
  | (.ending _, s') => (none, s')
  | (st', s') => (some st', s')

/-- A visit up to its next inner point; none when the visit is over. Each step asks one question of one owner block or
makes one offer, and between two of them the owner blocks may take requests (R133). -/
def visitPart (store : Nat) (pr : Process) (st : VisitStage) (s : State) : Option VisitStage × State :=
  match st with
  | .arrive =>
    let c := s.chart store pr
    if c.state = .off ∨ c.state = .suspended then (none, s)
    else
      match c.parked with
      | none => (some .miss, s)
      | some pk =>
        match findLot (s.table pr).lots pk.lot with
        | none => (some .miss, s)
        | some lot => (some (.snapped (parkedReading store pr pk) lot (s.table pr).profile), s)
  | .snapped rd lot profile =>
    match recheck rd lot profile s with
    | (none, s') => (some .miss, s')
    | (some ev, s') => (some (.retry (.computed ev)), s')
  | .retry rst =>
    match retryPart rst s with
    | (some rst', s') => (some (.retry rst'), s')
    | (none, s') => (some .miss, s')
  | .miss =>
    match countMiss store pr s with
    | (some missed, s') => (some (.overdue missed), s')
    | (none, s') => (some (.owed .condition), s')
  | .overdue missed => (some (.owed .condition), offerOverdue store pr missed s)
  | .owed .condition => (some (.owed .attendance), owedStep store pr .condition s)
  | .owed .attendance => (some (.owed .held), owedStep store pr .attendance s)
  | .owed .held => (none, owedStep store pr .held s)

/-- The slice in flight up to its next inner point: one step of a visit, and past the last chart the slice's end
(R133). -/
def slicePart (s : State) : State :=
  match s.engine with
  | some (.slice i st) =>
    if i < sliceCharts then
      match visitPart (sliceStore s i) (sliceProcess i) st s with
      | (some st', s') => { s' with engine := some (.slice i st') }
      | (none, s') => { s' with engine := some (.slice (i + 1) .arrive) }
    else endSlice s
  | _ => s

/-- SWEEP_SLICE (R132). -/
def execSweepSlice (x : Extent) (s : State) : Host.Outcome State Fault Refusal :=
  match x with
  | .whole => .next (sliceStage s)
  | .part => .next (slicePart s)

end Sys2Proof.Machine
end

