-- ==== Sys2Proof/Machine/Dispatch.lean ====
section
/-! DEFINITION. Dispatch: one arm per command, each one direct call of its meaning. -/

namespace Sys2Proof.Machine

def exec (i : Instr) (s : State) : Host.Outcome State Fault Refusal :=
  match i with
  | .deviceReset => Sys2Proof.Machine.execDeviceReset s
  | .resetRelease a b c => Sys2Proof.Machine.execResetRelease a b c s
  | .linkReset p => Sys2Proof.Machine.execLinkReset p s
  | .frameAbandoned p cause => Sys2Proof.Machine.execFrameAbandoned p cause s
  | .frameReceived p octets => Sys2Proof.Machine.execFrameReceived p octets s
  | .abortFrame p => Sys2Proof.Machine.execAbortFrame p s
  | .replySent p => Sys2Proof.Machine.execReplySent p s
  | .postReading => Sys2Proof.Machine.execPostReading s
  | .classify => Sys2Proof.Machine.execClassify s
  | .evaluationCommit x => Sys2Proof.Machine.execEvaluationCommit x s
  | .enrolChart => Sys2Proof.Machine.execEnrolChart s
  | .enrolChartCommit => Sys2Proof.Machine.execEnrolChartCommit s
  | .withdrawChart => Sys2Proof.Machine.execWithdrawChart s
  | .withdrawChartCommit => Sys2Proof.Machine.execWithdrawChartCommit s
  | .suspendChart => Sys2Proof.Machine.execSuspendChart s
  | .resumeChart => Sys2Proof.Machine.execResumeChart s
  | .restartChart => Sys2Proof.Machine.execRestartChart s
  | .setHold => Sys2Proof.Machine.execSetHold s
  | .setInstrument => Sys2Proof.Machine.execSetInstrument s
  | .readChart => Sys2Proof.Machine.execReadChart s
  | .restoreChart => Sys2Proof.Machine.execRestoreChart s
  | .restoreChartCommit => Sys2Proof.Machine.execRestoreChartCommit s
  | .stageLot p => Sys2Proof.Machine.execStageLot p s
  | .promoteLot p => Sys2Proof.Machine.execPromoteLot p s
  | .retireLot p => Sys2Proof.Machine.execRetireLot p s
  | .readLot p => Sys2Proof.Machine.execReadLot p s
  | .listLots p => Sys2Proof.Machine.execListLots p s
  | .stageProfile p => Sys2Proof.Machine.execStageProfile p s
  | .promoteProfile p => Sys2Proof.Machine.execPromoteProfile p s
  | .readProfile p => Sys2Proof.Machine.execReadProfile p s
  | .writePattern p => Sys2Proof.Machine.execWritePattern p s
  | .readPattern p => Sys2Proof.Machine.execReadPattern p s
  | .listNotices p => Sys2Proof.Machine.execListNotices p s
  | .acknowledgeNotice p => Sys2Proof.Machine.execAcknowledgeNotice p s
  | .closeDay p => Sys2Proof.Machine.execCloseDay p s
  | .setCalendar p => Sys2Proof.Machine.execSetCalendar p s
  | .setLateWindow p => Sys2Proof.Machine.execSetLateWindow p s
  | .readCalendar p => Sys2Proof.Machine.execReadCalendar p s
  | .setWindow p => Sys2Proof.Machine.execSetWindow p s
  | .setPortOptions p => Sys2Proof.Machine.execSetPortOptions p s
  | .readFlags p => Sys2Proof.Machine.execReadFlags p s
  | .clearFlags p => Sys2Proof.Machine.execClearFlags p s
  | .setFlagEnables p => Sys2Proof.Machine.execSetFlagEnables p s
  | .identify p => Sys2Proof.Machine.execIdentify p s
  | .sweepSlice x => Sys2Proof.Machine.execSweepSlice x s
  | .frameStart p => Sys2Proof.Machine.execFrameStart p s
  | .octetInError p => Sys2Proof.Machine.execOctetInError p s
  | .receiverResumes p => Sys2Proof.Machine.execReceiverResumes p s

end Sys2Proof.Machine
end

