-- ==== Sys2Proof/Machine/Line.lean ====
section
/-! DEFINITION. Line: the line form of LDI and LDO, period by period (R152). An octet stands on a line as ten periods;
the receiver finds start periods, takes octets and octets in error, and sees link resets (R161). The commands of the
table carry whole octets and whole events; this file says which levels of LDI bring them about, and which levels LDO
shows (notes/assumptions/5.md). -/

namespace Sys2Proof.Machine

/-- The level of a line in one LCK period: high is true. -/
abbrev Level := Bool

/-- The ten periods of an octet: start low, the eight bits least significant first, stop high (R152). -/
def octetLevels (o : Octet) : List Level := false :: ((List.range 8).map o.getLsbD ++ [true])

/-- Octets on a line, each after its own number of high periods (R152). -/
def lineForm (stream : List (Nat × Octet)) : List Level :=
  stream.flatMap fun x => List.replicate x.1 true ++ octetLevels x.2

/-! ## LDO -/

/-- LDO in the n-th period from the moment the port turns to the frame it sends, and high when it sends none (R152,
R158, R169). R152 leaves open how many high periods the part puts before each octet of its frame: `pauses k` is that
number before the k-th octet, an argument that nothing fixes (DESIGN CHOICE, notes/assumptions/20.md). -/
def ldoLevel (pauses : Nat → Nat) (ps : PortState) (n : Nat) : Level :=
  match ps.sending with
  | some f => (lineForm (f.octets.zipIdx.map fun x => (pauses x.2, x.1))).getD n true
  | none => true

/-! ## LDI -/

/-- Where a receiver stands between two samples of LDI (R152). -/
inductive Watch where
  /-- LDI was high: a low period is a start period. -/
  | high
  /-- Inside an octet, with the data bits taken so far, least significant first. -/
  | octet (bits : List Bool)
  /-- Waiting for LDI to be high for one period, after an octet in error or a link reset. -/
  | wait
  deriving DecidableEq, Repr

/-- A receiver's view of LDI: where it stands, and how many consecutive periods LDI has been low (R152, R161). -/
structure LineWatch where
  watch : Watch
  lows : Nat
  deriving DecidableEq, Repr

/-- LDI high, and no octet begun. -/
def LineWatch.idle : LineWatch := ⟨.high, 0⟩

/-- What one sample of LDI brings to the port (R152, R161). -/
inductive LineEvent where
  | octet (o : Octet)
  | octetInError
  | resumes
  | linkReset
  deriving DecidableEq, Repr

/-- The octet of eight data bits, least significant first (R152). -/
def octetOfBits (bits : List Bool) : Octet := bitsOf 8 fun i => bits.getD i false

/-- One sample of LDI, on the rising edge of LCK. A low period after a high one starts an octet; the eight periods
after it are data and the tenth is the stop period, low in an octet in error. Waiting, the receiver resumes with a
high period, and the 32nd consecutive low period is a link reset. No octet holds more than ten low periods, so a link
reset finds the receiver waiting (R152, R161). -/
def sampleLine (w : LineWatch) (level : Level) : LineWatch × Option LineEvent :=
  let lows := if level then 0 else w.lows + 1
  match w.watch with
  | .high => if level then (⟨.high, lows⟩, none) else (⟨.octet [], lows⟩, none)
  | .octet bits =>
    if bits.length < 8 then (⟨.octet (bits ++ [level]), lows⟩, none)
    else if level then (⟨.high, lows⟩, some (.octet (octetOfBits bits)))
    else (⟨.wait, lows⟩, some .octetInError)
  | .wait =>
    if level then (⟨.high, lows⟩, some .resumes)
    else (⟨.wait, lows⟩, if lows = Config.linkResetLows then some .linkReset else none)

/-- The effect of a line event at a port: that of the command it stands for (R152, R153, R161). -/
def onLineEvent (p : Port) (e : Option LineEvent) (s : State) : State :=
  match e with
  | none => s
  | some (.octet o) => receiveOctet p o s
  | some .octetInError => s.modPort p octetInError
  | some .resumes => s.modPort p receiverResumes
  | some .linkReset => linkReset p s

/-- Samples of LDI one after another, and what they bring to the port. -/
def hearLine (p : Port) : List Level → LineWatch → State → LineWatch × State
  | [], w, s => (w, s)
  | level :: rest, w, s =>
    hearLine p rest (sampleLine w level).1 (onLineEvent p (sampleLine w level).2 s)

end Sys2Proof.Machine
end

