-- ==== Sys2Proof/Safety.lean ====
section
/-! DEFINITION. Safety: what a safe step is, the invariants that every step keeps, and the vocabulary in which the
statements speak of queues, replies, requesters and enrolled charts. -/

namespace Sys2Proof.Machine

/-- A step is safe when it answers a next state. -/
def SafeStep (s : State) : Prop := ∃ t, step s = .next t

/-! ## Queues and replies -/

def Place.isInFlight (pl : Place) : Bool :=
  match pl.progress with
  | .inFlight => true
  | .waiting => false
  | .answered _ => false

def Place.isAnswered (pl : Place) : Bool :=
  match pl.progress with
  | .answered _ => true
  | .waiting => false
  | .inFlight => false

/-- A place with the mark of a grant taken off. -/
def Place.settled (pl : Place) : Place := if pl.isInFlight then { pl with progress := .waiting } else pl

/-- The reply of the oldest place, when it is there. -/
def headReply : List Place → Option ReplyFrame
  | ⟨_, .answered r⟩ :: _ => some r
  | _ => none

/-- The state in which the request at the head of a port's queue has been answered and the arbiter has looked for a
requester (R143, R145). -/
def State.answered (s : State) (p : Port) (r : Request) (rep : Reply) : State :=
  arbitrate (s.modPort p (answerPlaces r rep))

/-- A request of this code waits at the head of a port's queue (R143). -/
def AtHead (s : State) (p : Port) (code : RequestCode) (r : Request) : Prop :=
  waitingHead s p = some r ∧ r.code = code

/-- A caller's request waits for its ACCEPT or grant checks, and has this code (R149). -/
def Granted (s : State) (code : RequestCode) (c : Caller) : Prop :=
  s.engine = some (.granted c) ∧ c.request.code = code

/-- A caller's request has this code, waits for its grant checks and names this chart (R52). -/
def GrantedOn (s : State) (code : RequestCode) (c : Caller) (store : Nat) (pr : Process) : Prop :=
  Granted s code c ∧ namedChart c = some (store, pr)

/-! ## Invariants -/

/-- The Store Table keeps its canonical form. -/
abbrev StoresOk (s : State) : Prop := storeWf s.stores

/-- The Notice Queue: at most 64 entries, ids 1..65535 held once, one entry for each chart and class, occurrences
1..255 (R111 to R114). -/
abbrev NoticesOk (s : State) : Prop :=
  s.notices.entries.length ≤ Config.noticeEntries ∧
  (1 ≤ s.notices.nextId ∧ s.notices.nextId ≤ Config.max16) ∧
  (s.notices.entries.map (·.id)).Nodup ∧
  (s.notices.entries.map fun e => (e.store, e.process, e.cls)).Nodup ∧
  ∀ e ∈ s.notices.entries,
    (1 ≤ e.id ∧ e.id ≤ Config.max16) ∧ 1 ≤ e.occurrences ∧ e.occurrences ≤ Config.max8

/-- Densities 0..4000, corrections −500..500, a last usable day, when there is one, 0..65535 (R16). -/
abbrev LotValues.inRange (v : LotValues) : Prop :=
  (∀ d ∈ v.densities.list, d ≤ Config.maxDensity) ∧ (∀ x ∈ v.corrections.list, (-500 : Int) ≤ x ∧ x ≤ 500) ∧
  ∀ d ∈ v.lastUsable, d ≤ Config.max16

/-- The active lots of a process: ascending lot number, at most 16, each 1..65535 with revision 1..255, its values in
range and consistent (R16 to R18, R25). -/
abbrev LotsOk (lots : List LotRecord) : Prop :=
  lots.Pairwise (fun x y => x.number < y.number) ∧ lots.length ≤ Config.lotsPerProcess ∧
  ∀ l ∈ lots,
    (1 ≤ l.number ∧ l.number ≤ Config.max16) ∧ (1 ≤ l.revision ∧ l.revision ≤ 255) ∧ l.values.inRange ∧
    inconsistentChannel l.values = none

/-- The ranges of a group's limits (R20). -/
abbrev Limits.inRange (l : Limits) : Prop :=
  (1 ≤ l.cl ∧ l.cl ≤ 1000) ∧ (1 ≤ l.al ∧ l.al ≤ 1000) ∧ (1 ≤ l.sl ∧ l.sl ≤ 2000) ∧ (1 ≤ l.dl ∧ l.dl ≤ 1000) ∧
  l.rb ≤ 1000

/-- The ranges of a profile's fields (R20). -/
abbrev ProfileValues.inRange (v : ProfileValues) : Prop :=
  (∀ l ∈ v.limits.toList, l.inRange) ∧ (1 ≤ v.weight ∧ v.weight ≤ 16) ∧ (2 ≤ v.runLength ∧ v.runLength ≤ 15) ∧
  (1 ≤ v.overdueLimit ∧ v.overdueLimit ≤ 15)

/-- The active profile: in range, no CL above its AL, some group plotted, revision 0..255 (R20, R21, R28). -/
abbrev ProfileOk (pf : Profile) : Prop :=
  pf.values.inRange ∧ inconsistentGroup pf.values = none ∧ plotsNothing pf.values = false ∧ pf.revision ≤ 255

abbrev TableOk (t : ProcTable) : Prop := LotsOk t.lots ∧ ProfileOk t.profile

/-- A port's staging records are in range (R22 to R24). -/
def StagingOk (ps : PortState) : Prop :=
  (∀ st, ps.stagingLot = some st → (1 ≤ st.number ∧ st.number ≤ Config.max16) ∧ st.values.inRange) ∧
  ∀ st, ps.stagingProfile = some st → st.values.inRange

/-- The Reference Table and the staging records (chapter 2). -/
def ReferenceOk (s : State) : Prop :=
  (∀ pr, TableOk (s.table pr)) ∧ ∀ p, StagingOk (s.port p)

/-- LDO: an octet stream being sent is the line form of the oldest refusal or of the oldest reply, and with LDO free
there is nothing to send (R158). -/
def SendingOk (ps : PortState) : Prop :=
  match ps.sending with
  | none => ps.refusals = [] ∧ headReply ps.places = none
  | some ⟨.refusal, octets⟩ => ps.refusals.head?.map replyLine = some octets
  | some ⟨.reply, octets⟩ => (headReply ps.places).map replyLine = some octets

/-- One port: four places and four refusals at most, quota 1..8, an aligned window inside 0..1023, counters 0..65535,
accepted bodies of a length their code admits (R156, R158, R162 to R164). -/
def PortOk (ps : PortState) : Prop :=
  ps.places.length ≤ Config.queuePlaces ∧ ps.refusals.length ≤ Config.refusalPlaces ∧
  (1 ≤ ps.quota ∧ ps.quota ≤ 8) ∧
  (ps.window.size ∈ windowSizes ∧ ps.window.base % ps.window.size = 0 ∧
    ps.window.base + ps.window.size ≤ Config.stores) ∧
  (ps.correctedHeaders ≤ Config.max16 ∧ ps.drops ≤ Config.max16) ∧
  (∀ pl ∈ ps.places, admitsLength pl.request.code pl.request.body.length = true) ∧
  SendingOk ps

def PortsOk (s : State) : Prop := ∀ p, PortOk (s.port p)

/-- The Calendar Unit: C and D 0..65535, W 0..14; the next store is a multiple of eight below 1024, and 0 while IDLE;
while SWEEPING the calendar day follows the closing day; a slice is in flight only while SWEEPING (R127, R131, R132,
R139). -/
def CalendarOk (s : State) : Prop :=
  s.calendar.day ≤ Config.max16 ∧ s.calendar.closingDay ≤ Config.max16 ∧ s.calendar.lateWindow ≤ Config.maxLateWindow ∧
  (s.calendar.nextStore % Config.sliceStores = 0 ∧ s.calendar.nextStore < Config.stores) ∧
  (s.calendar.sweep = .idle → s.calendar.nextStore = 0) ∧
  (s.calendar.sweep = .sweeping → s.calendar.day = s.calendar.closingDay + 1) ∧
  (sliceInFlight s = true → s.calendar.sweep = .sweeping)

/-- The requester an operation was granted to. -/
def Operation.requester (op : Operation) : Requester :=
  match op.port? with
  | some p => .port p
  | none => .sweep

def Operation.caller? : Operation → Option Caller
  | .granted c => some c
  | .evaluating c _ => some c
  | .enrolling c _ _ _ => some c
  | .withdrawing c _ _ => some c
  | .restoring c _ _ _ => some c
  | .slice _ _ => none

/-- The request that a port has in flight, unless a link reset has freed its place (R149, R150). -/
def requestInFlight (s : State) (p : Port) : Option Request :=
  match s.engine.bind Operation.caller? with
  | some c => if c.port = p ∧ c.discardReply = false then some c.request else none
  | none => none

/-- The places of a port show its request in flight, at the head of its queue and there alone (R143, R149). -/
def InFlightOk (s : State) (p : Port) : Prop :=
  match requestInFlight s p with
  | some r =>
    queueHead (s.port p).places = some ⟨r, .inFlight⟩ ∧ ((s.port p).places.filter Place.isInFlight).length = 1
  | none => ∀ pl ∈ (s.port p).places, pl.isInFlight = false

/-- The arbiter: with the engine free no requester is present, the grant is none and the burst count 0; with an
operation in flight the grant is its requester's and the burst count lies in 1..8 (R144 to R149). -/
def ArbiterOk (s : State) : Prop :=
  (match s.engine with
    | none => s.arbiter.grant = none ∧ s.arbiter.burst = 0 ∧ ∀ q, present s q = false
    | some op => s.arbiter.grant = some op.requester ∧ 1 ≤ s.arbiter.burst ∧ s.arbiter.burst ≤ 8) ∧
  ∀ p, InFlightOk s p

/-! ## Counts of charts -/

def Chart.enrolled (c : Chart) : Bool := decide (c.state ≠ .off)

/-- The number of charts that are not OFF (R53); a store that is not listed has both charts OFF. -/
def enrolledCharts (t : StoreTable) : Nat :=
  (t.map fun x => x.2.film.enrolled.toNat + x.2.paper.enrolled.toNat).sum

/-- The number of charts of a process that are not OFF and whose current lot is a lot (R19). -/
def chartsOnLot (pr : Process) (n : Nat) (t : StoreTable) : Nat :=
  (t.filter fun x => (x.2.chart pr).enrolled && (x.2.chart pr).currentLot == n).length

/-- One for an Enrol Chart or Restore Chart that has passed its grant checks and has not committed (R53). -/
def enrolmentInFlight : Option Operation → Nat
  | some (.enrolling _ _ _ _) => 1
  | some (.restoring _ _ _ _) => 1
  | _ => 0

/-- The reading of an evaluation, while a chart write or an offer may follow. -/
def EvalStage.reading? : EvalStage → Option Reading
  | .computed ev => some ev.reading
  | .classified ev _ => some ev.reading
  | .offering ev _ _ _ _ => some ev.reading
  | .parking rd => some rd
  | .ending _ => none

/-- The reading of the parked retry that a slice stands in, while a chart write or an offer may follow. -/
def VisitStage.reading? : VisitStage → Option Reading
  | .snapped rd _ _ => some rd
  | .retry st => st.reading?
  | _ => none

/-- The chart of a reading in flight is not OFF. -/
def ReadingEnrolled (s : State) (r : Option Reading) : Prop :=
  ∀ rd, r = some rd → (s.chart rd.store rd.process).enrolled = true

/-- The chart an operation in flight has found at its grant is the one it finds at its end (R149). -/
def EngineChartOk (s : State) : Prop :=
  match s.engine with
  | some (.evaluating _ st) => ReadingEnrolled s st.reading?
  | some (.slice _ st) => ReadingEnrolled s st.reading?
  | some (.enrolling _ n pr _) => n < Config.stores ∧ (s.chart n pr).enrolled = false
  | some (.withdrawing _ n pr) => (s.chart n pr).enrolled = true
  | some (.restoring _ n pr ch) => n < Config.stores ∧ (s.chart n pr).enrolled = false ∧ ch.enrolled = true
  | _ => True

/-- The enrolment count is the number of charts that are not OFF, plus one for an enrolment under way (R53). -/
def EnrolmentOk (s : State) : Prop :=
  StoresOk s ∧ EngineChartOk s ∧
  s.calendar.enrolment = enrolledCharts s.stores + enrolmentInFlight s.engine

/-- Every lot's store count is the number of charts on it, and a chart that is not OFF is on an active lot or on none
(R19, R83). -/
def StoreCountsOk (s : State) : Prop :=
  StoresOk s ∧ EngineChartOk s ∧
  ∀ pr,
    (∀ l ∈ (s.table pr).lots, l.storeCount = chartsOnLot pr l.number s.stores) ∧
    ∀ n, (s.chart n pr).enrolled = true →
      (s.chart n pr).currentLot = 0 ∨ lotActive s pr (s.chart n pr).currentLot = true

/-! ## The values of charts -/

/-- A deviation lies in −2047..+2047 (R12). -/
abbrev DeviationOk (d : Int) : Prop := -2047 ≤ d ∧ d ≤ 2047

/-- E lies in −32752..+32752 (R44, R75). -/
abbrev EwmaOk (e : Int) : Prop := -32752 ≤ e ∧ e ≤ 32752

/-- A run sign of 0 goes with a run count of 0, another sign with 1..15 (R44, R78). -/
abbrev RunOk (sign : Sgn) (count : Nat) : Prop := count ≤ Config.maxRun ∧ (sign = .zero ↔ count = 0)

/-- A per-PV item in range (R39, R44). -/
def PvOk (x : PvState) : Prop :=
  (∀ d, x.lastDeviation = some d → DeviationOk d) ∧ EwmaOk x.ewma ∧ RunOk x.runSign x.runCount

/-- A deviation list: ascending PV numbers 0..11, and so at most twelve, each with its deviation in range (R46). -/
def DeviationListOk (l : List (Nat × Int)) : Prop :=
  l.Pairwise (fun x y => x.1 < y.1) ∧ ∀ x ∈ l, x.1 ≤ 11 ∧ DeviationOk x.2

/-- A last result in range (R46). -/
def LastResultOk (r : LastResult) : Prop := r.day ≤ Config.max16 ∧ r.code ≤ 63 ∧ DeviationListOk r.deviations

/-- A parked reading in range, its day no later than a given day and no earlier than L (R50). -/
structure ParkedOk (day : Nat) (last : Option Nat) (pk : Parked) : Prop where
  lot : 1 ≤ pk.lot ∧ pk.lot ≤ Config.max16
  notLate : pk.day ≤ day
  notStale : ∀ l, last = some l → l ≤ pk.day
  codes : ∀ k ∈ pk.codes.list, k ≤ Config.max16

/-- A chart record on a calendar day: an OFF chart holds the OFF values; every field lies in its range of R39; enrol
day, L and a parked day are no later than the day (R39, R43, R44, R46, R48, R50). -/
structure ChartOk (day : Nat) (c : Chart) : Prop where
  off : c.state = .off → c = Chart.off
  lot : c.currentLot ≤ Config.max16
  revision : c.lotRevision ≤ 255
  enrolDay : c.enrolDay ≤ day
  lastDay : ∀ l, c.lastDay = some l → l ≤ day
  missed : c.missed ≤ Config.max8
  pvs : ∀ g x, PvOk (c.pvs.pv g x)
  lastResult : ∀ r, c.lastResult = some r → LastResultOk r
  parked : ∀ pk, c.parked = some pk → ParkedOk day c.lastDay pk
  evaluated : c.evaluatedCount ≤ Config.max16
  stale : c.staleCount ≤ Config.max16
  expired : c.expiredCount ≤ Config.max16

/-- The working values of one plotting value in range (R12, R74, R75, R78). -/
def PvWorkOk (w : PvWork) : Prop := DeviationOk w.deviation ∧ EwmaOk w.ewma ∧ RunOk w.runSign w.runCount

/-- A reading past its day checks is on a lot and no later than the calendar day (R65, R67). -/
structure ReadingOk (day : Nat) (rd : Reading) : Prop where
  lot : 1 ≤ rd.lot ∧ rd.lot ≤ Config.max16
  notFuture : rd.day ≤ day
  codes : ∀ k ∈ rd.codes.list, k ≤ Config.max16

/-- An evaluation past ACCEPT: its reading has passed the day checks, its lot's revision and its working values are in
range (R65, R70). -/
structure EvaluationOk (day : Nat) (ev : Evaluation) : Prop where
  reading : ReadingOk day ev.reading
  revision : ev.lot.revision ≤ 255
  pvs : ∀ g x, PvWorkOk (ev.pvs.pv g x)

/-- The reading of an evaluation is not earlier than its chart's L (R68). -/
def NotStale (s : State) (rd : Reading) : Prop := ∀ l, (s.chart rd.store rd.process).lastDay = some l → l ≤ rd.day

/-- An evaluation in flight at one of its stages; the offers left of a commit are those of its chart (R63, R89). -/
def EvalStageOk (s : State) : EvalStage → Prop
  | .computed ev => EvaluationOk s.calendar.day ev ∧ NotStale s ev.reading
  | .classified ev res =>
    EvaluationOk s.calendar.day ev ∧ NotStale s ev.reading ∧ res.code ≤ 63 ∧ DeviationListOk res.deviations
  | .offering ev _ offers _ _ => ∀ o ∈ offers, o.store = ev.reading.store ∧ o.process = ev.reading.process
  | .parking _ => True
  | .ending _ => True

/-- The retry that a slice stands in: the parked reading with the snapshots of the lot answer in range, or the
evaluation (R70, R134). -/
def VisitStageOk (s : State) : VisitStage → Prop
  | .snapped rd lot profile =>
    ReadingOk s.calendar.day rd ∧ NotStale s rd ∧ lot.revision ≤ 255 ∧ profile.values.weight ≤ 16
  | .retry st => EvalStageOk s st
  | _ => True

/-- What the operation in flight is to write to charts is in range, and a slice past its arrival at a chart stands at
one that is not OFF, its retry at that chart (R61, R65, R132, R134). -/
def EngineValuesOk (s : State) : Prop :=
  match s.engine with
  | some (.evaluating _ st) => EvalStageOk s st
  | some (.enrolling _ _ _ lot) => lot ≤ Config.max16
  | some (.restoring _ _ _ ch) => ChartOk s.calendar.day ch
  | some (.slice i st) =>
    (st ≠ .arrive → (s.chart (sliceStore s i) (sliceProcess i)).enrolled = true) ∧
    VisitStageOk s st ∧ ∀ rd, st.reading? = some rd → rd.store = sliceStore s i ∧ rd.process = sliceProcess i
  | _ => True

/-- Every chart record keeps its ranges and relations on the calendar day, no notice names an OFF chart, and no
pattern entry has a code above 59 (R39, R43, R44, R50, R67, R75, R94, R126). -/
def ChartsOk (s : State) : Prop :=
  (∀ n pr, ChartOk s.calendar.day (s.chart n pr)) ∧
  (∀ e ∈ s.notices.entries, (s.chart e.store e.process).enrolled = true) ∧
  (∀ i : Fin 16, s.patterns[i].code ≤ 59) ∧
  EngineValuesOk s

end Sys2Proof.Machine
end

