-- ==== Sys2Proof/Certificates/Slice0/Obligations.lean ====
section
/-! DEFINITION. The statements for the provers. A command that answers a request is stated by the whole state it leads
to: the effect written out, then `State.answered` (owner work) or `finishOperation` (engine work), whose own effect
AnsweredRequestLeavesQueue, AnswersTouchOnlyQueues, EmptyEngineIsGranted and BurstIsDecidedAtTheEnd state. So each of
these statements is the completion, the result and the frame of its command at once. -/

open Sys2Proof Sys2Proof.Machine

/-! ## Steps -/

/-- A step runs the command at the front of the queue on the state with the queue's rest. The first-in first-out queue
is the model's own (DESIGN CHOICE, notes/assumptions/13.md), and so is that a command is one step of the table (DESIGN
CHOICE, notes/assumptions/1.md); the spec gives the part no queue of commands. -/
def Obligations.StepTakesFrontCommand : Prop :=
  ∀ (c : Instr) (rest : List Instr) (s : State),
    s.pending = c :: rest → step s = exec c { s with pending := rest }

/-- Every command answers a next state and leaves the queue of commands alone; on an empty queue a step leaves the
part as it is. The queue and the idle step are the model's (notes/assumptions/2.md, 13.md). (R156, R173) -/
def Obligations.EveryCommandCompletes : Prop :=
  (∀ (c : Instr) (s : State), ∃ t, exec c s = .next t ∧ t.pending = s.pending) ∧
  ∀ s : State, s.pending = [] → step s = .next s

/-! ## Device reset, link reset, the receiver -/

/-- What DEVICE_RESET leaves, item by item, in any state. That RESETN is then still low, and that no right is held
until the release, is the model's (notes/assumptions/3.md). (R3, R17, R21, R22, R38, R39, R94, R113, R127, R144, R169)
-/
def Obligations.DeviceResetGivesResetValues : Prop :=
  ∀ s : State, ∃ t, exec .deviceReset s = .next t ∧ t.pending = s.pending ∧ t.resetHeld = true ∧
    (∀ p, (t.port p).receiver = .looking ∧ (t.port p).places = [] ∧ (t.port p).refusals = [] ∧
      (t.port p).sending = none ∧ (t.port p).stagingLot = none ∧ (t.port p).stagingProfile = none ∧
      (t.port p).byteOrder = .big ∧ (t.port p).quota = 2 ∧ (t.port p).window = ⟨0, 1024⟩ ∧
      (t.port p).flags = ⟨false, false, false, false, false, false⟩ ∧
      (t.port p).enables = ⟨false, false, false, false, false, false⟩ ∧
      (t.port p).correctedHeaders = 0 ∧ (t.port p).drops = 0 ∧
      (t.port p).rights = ⟨false, false, false, false⟩) ∧
    t.arbiter = ⟨.port .a, none, 0⟩ ∧ t.engine = none ∧
    (∀ pr, (t.table pr).lots = [] ∧ (t.table pr).profile.revision = 0 ∧
      (t.table pr).profile.values.limits =
        ⟨⟨10, 20, 12, 6, 4⟩, ⟨15, 30, 15, 10, 6⟩, ⟨20, 40, 20, 12, 8⟩, ⟨30, 60, 30, 20, 12⟩⟩ ∧
      (t.table pr).profile.values.weight = 4 ∧ (t.table pr).profile.values.runLength = 5 ∧
      (t.table pr).profile.values.overdueLimit = 2) ∧
    (t.table .f).profile.values.plotted = ⟨true, true, true, false⟩ ∧
    (t.table .p).profile.values.plotted = ⟨true, true, true, true⟩ ∧
    (∀ n, (t.entry n).instrument = ⟨.bits12, ⟨0, 0, 0⟩⟩ ∧
      ∀ pr, (t.chart n pr).state = .off ∧ (t.chart n pr).seedPending = false ∧ (t.chart n pr).currentLot = 0 ∧
        (t.chart n pr).lotRevision = 0 ∧ (t.chart n pr).enrolDay = 0 ∧ (t.chart n pr).lastDay = none ∧
        (t.chart n pr).missed = 0 ∧ (∀ g ch, (t.chart n pr).pvs.pv g ch = ⟨none, 0, .zero, 0⟩) ∧
        (t.chart n pr).hold = 0 ∧ (t.chart n pr).latched = 0 ∧ (t.chart n pr).lastResult = none ∧
        (t.chart n pr).owed = ⟨false, false, false⟩ ∧ (t.chart n pr).parked = none ∧
        (t.chart n pr).evaluatedCount = 0 ∧ (t.chart n pr).staleCount = 0 ∧ (t.chart n pr).expiredCount = 0) ∧
    (∀ i : Fin 16, t.patterns[i].enabled = false ∧ t.patterns[i].care = 0 ∧
      (∀ g ch, t.patterns[i].expectPv.pv g ch = .none) ∧ (∀ g, t.patterns[i].expectSpread.get g = .absent) ∧
      t.patterns[i].mode = .plain ∧ t.patterns[i].code = 0 ∧ t.patterns[i].severity = .info ∧
      t.patterns[i].generation = 0) ∧
    t.notices.entries = [] ∧ t.notices.nextId = 1 ∧
    t.calendar = ⟨0, 3, .idle, 0, 0, 0⟩

/-- The release of RESETN latches the straps of each port as its rights and changes nothing else of the part but the
receivers, which look for the first START; straps are not read again. While RESETN is low no line event is taken at
any port. (R151, R169) -/
def Obligations.ResetReleaseLatchesStraps : Prop :=
  (∀ (a b c : Rights) (s : State),
     (s.resetHeld = true → ∃ t, exec (.resetRelease a b c) s = .next t ∧ t.resetHeld = false ∧
       (t.port .a).rights = a ∧ (t.port .b).rights = b ∧ (t.port .c).rights = c ∧
       (∀ p, t.port p = { s.port p with rights := (t.port p).rights, receiver := .looking }) ∧
       t = { s with resetHeld := false, ports := t.ports }) ∧
     (s.resetHeld = false → exec (.resetRelease a b c) s = .next s)) ∧
  ∀ (s : State) (p : Port) (cause : AbandonCause) (octets : List Octet), s.resetHeld = true →
    exec (.linkReset p) s = .next s ∧ exec (.frameAbandoned p cause) s = .next s ∧
    exec (.frameReceived p octets) s = .next s ∧ exec (.abortFrame p) s = .next s ∧
    exec (.replySent p) s = .next s ∧ exec (.frameStart p) s = .next s ∧ exec (.octetInError p) s = .next s ∧
    exec (.receiverResumes p) s = .next s

/-- Link reset: the port's items as the table of R169 gives them, one step; the operation in flight goes on as it was,
its kind, its stage and its working values kept, and when it serves the port its caller's reply is one to discard;
nothing else changes. In the same low of LDI it is taken once. (R150, R161, R169, R22) -/
def Obligations.LinkResetClearsThePort : Prop :=
  ∀ (s : State) (p : Port), s.resetHeld = false →
    ((s.port p).receiver ≠ .waitHigh true → ∃ t, exec (.linkReset p) s = .next t ∧
      t.port p =
        { s.port p with
          receiver := .waitHigh true, places := [], refusals := [], sending := none, stagingLot := none
          stagingProfile := none, byteOrder := .big, quota := 2
          flags := ⟨false, false, false, false, false, false⟩
          enables := ⟨false, false, false, false, false, false⟩ } ∧
      atnLow (t.port p) = false ∧
      (∀ q, q ≠ p → t.port q = s.port q) ∧
      t = { s with ports := t.ports, engine := t.engine } ∧
      t.engine = s.engine.map fun op =>
        let mark := fun c : Caller => if c.port = p then { c with discardReply := true } else c
        match op with
        | .granted c => .granted (mark c)
        | .evaluating c st => .evaluating (mark c) st
        | .enrolling c n pr lot => .enrolling (mark c) n pr lot
        | .withdrawing c n pr => .withdrawing (mark c) n pr
        | .restoring c n pr ch => .restoring (mark c) n pr ch
        | .slice i st => .slice i st) ∧
    ((s.port p).receiver = .waitHigh true → exec (.linkReset p) s = .next s)

/-- The receiver: START outside a frame begins one; inside a frame it abandons the partial frame as a drop and begins
a new one. An octet in error outside a frame is discarded without count, and inside one is a drop; then the receiver
waits for LDI to be high, and a high period makes it look for a start again. A partial frame that is abandoned is one
drop, saturating, with LINK, at this port alone, without reply; the receiver goes on by the cause. On the levels of
LDI: an octet with a low stop period is OCTET_IN_ERROR, a high period is RECEIVER_RESUMES, and 32 low periods in a row
are the octet in error and LINK_RESET, once, however long the low. That a command without its occasion leaves the
state as it is (an abandoned frame outside a frame, a resumption without a wait, a line event while waiting) is the
model's (DESIGN CHOICE, notes/assumptions/1.md; notes/assumptions/16.md). (R152, R153, R161, R162) -/
def Obligations.ReceiverFollowsTheLine : Prop :=
  (∀ (s : State) (p : Port), s.resetHeld = false →
     ((s.port p).receiver = .looking →
       exec (.frameStart p) s = .next (s.modPort p fun ps => { ps with receiver := .inFrame ⟨[], 0, false⟩ }) ∧
       exec (.octetInError p) s = .next (s.modPort p fun ps => { ps with receiver := .waitHigh false }) ∧
       exec (.receiverResumes p) s = .next s) ∧
     (∀ c, (s.port p).receiver = .inFrame c →
       exec (.frameStart p) s =
         .next (s.modPort p fun ps => countDrop { ps with receiver := .inFrame ⟨[], 0, false⟩ }) ∧
       exec (.octetInError p) s = .next (s.modPort p fun ps => countDrop { ps with receiver := .waitHigh false }) ∧
       exec (.receiverResumes p) s = .next s) ∧
     ∀ taken, (s.port p).receiver = .waitHigh taken →
       exec (.frameStart p) s = .next s ∧ exec (.octetInError p) s = .next s ∧
       exec (.receiverResumes p) s = .next (s.modPort p fun ps => { ps with receiver := .looking })) ∧
  (∀ (s : State) (p : Port) (cause : AbandonCause), s.resetHeld = false →
    (∀ c, (s.port p).receiver = .inFrame c → exec (.frameAbandoned p cause) s = .next (s.modPort p fun ps =>
      { ps with
        receiver := (match cause with
          | .start => .inFrame ⟨[], 0, false⟩
          | .escapeThenStart => .inFrame ⟨[], 0, false⟩
          | .badEscape => .looking
          | .octetInError => .waitHigh false)
        drops := if ps.drops < 65535 then ps.drops + 1 else ps.drops
        flags := { ps.flags with link := true } })) ∧
    ((∀ c, (s.port p).receiver ≠ .inFrame c) → exec (.frameAbandoned p cause) s = .next s)) ∧
  ∀ (s : State) (p : Port), s.resetHeld = false →
    (∀ o : Octet, ∃ k, hearLine p ((octetLevels o).take 9 ++ [false]) ⟨.high, 0⟩ s =
      (⟨.wait, k⟩, s.modPort p octetInError)) ∧
    exec (.octetInError p) s = .next (s.modPort p octetInError) ∧
    (∀ k, exec (.receiverResumes p) s = .next (hearLine p [true] ⟨.wait, k⟩ s).2 ∧
      (hearLine p [true] ⟨.wait, k⟩ s).1 = ⟨.high, 0⟩) ∧
    ∀ n t, exec (.octetInError p) s = .next t →
      exec (.linkReset p) t = .next (hearLine p (List.replicate (32 + n) false) ⟨.high, 0⟩ s).2 ∧
      (∀ m, m < 32 → 10 ≤ m → hearLine p (List.replicate m false) ⟨.high, 0⟩ s = (⟨.wait, m⟩, t))

/-! ## Frames -/

/-- Unescaping undoes escaping: the line octets of any content, received after START, leave exactly that content in
the receiver, kept up to 640 octets, and change nothing else. A frame on the line is START, its content with each of
0xD3, 0xD4 and 0xD5 replaced by 0xD4 and that octet XOR 0x40, and END. An octet is a low period, its bits from bit 0
to bit 7 and a high period; a stream of octets, with any high periods before each, is heard as those octets, and so
FRAME_START and FRAME_RECEIVED are what the levels of START and of the octets up to END do; LDO is high with nothing
to send and shows each octet of a frame in that form, after any pause that the part makes (the pauses are left open,
notes/assumptions/20.md). That a command carries octets and not levels is the model's (DESIGN CHOICE,
notes/assumptions/5.md). (R152, R153) -/
def Obligations.EscapedContentIsRecovered : Prop :=
  (∀ (s : State) (p : Port) (content : List Octet), (s.port p).receiver = .inFrame ⟨[], 0, false⟩ →
    receiveOctets p (escapeContent content) s =
      s.modPort p fun ps => { ps with receiver := .inFrame ⟨content.take 640, content.length, false⟩ }) ∧
  (∀ o : Octet, octetLevels o =
    [false, o.getLsbD 0, o.getLsbD 1, o.getLsbD 2, o.getLsbD 3, o.getLsbD 4, o.getLsbD 5, o.getLsbD 6, o.getLsbD 7,
      true]) ∧
  (∀ (s : State) (p : Port) (stream : List (Nat × Octet)),
    hearLine p (stream.flatMap fun x => List.replicate x.1 true ++ octetLevels x.2) ⟨.high, 0⟩ s =
      (⟨.high, 0⟩, receiveOctets p (stream.map (·.2)) s)) ∧
  (∀ (s : State) (p : Port) (octets : List Octet), s.resetHeld = false →
    exec (.frameStart p) s = .next (hearLine p (octetLevels 0xD3) ⟨.high, 0⟩ s).2 ∧
    exec (.frameReceived p octets) s =
      .next (hearLine p ((octets ++ [0xD5]).flatMap octetLevels) ⟨.high, 0⟩ s).2) ∧
  (∀ content, escapeContent content =
      content.flatMap fun o => if o = 0xD3 ∨ o = 0xD4 ∨ o = 0xD5 then [0xD4, o ^^^ 0x40] else [o]) ∧
  (∀ content, frameLine content = 0xD3 :: (escapeContent content ++ [0xD5])) ∧
  ∀ (pauses : Nat → Nat) (ps : PortState),
    (ps.sending = none → ∀ n, ldoLevel pauses ps n = true) ∧
    ∀ f, ps.sending = some f →
      (∀ k o, f.octets[k]? = some o →
        let start := ((List.range (k + 1)).map pauses).sum + 10 * k
        (∀ i, i < pauses k → ldoLevel pauses ps (start - pauses k + i) = true) ∧ ldoLevel pauses ps start = false ∧
        (∀ i, i < 8 → ldoLevel pauses ps (start + 1 + i) = o.getLsbD i) ∧ ldoLevel pauses ps (start + 9) = true) ∧
      ∀ n, ((List.range f.octets.length).map pauses).sum + 10 * f.octets.length ≤ n → ldoLevel pauses ps n = true

/-- Every request frame, built from its tag, code and body by the frame layout, with its right held, an admitted
length and a free place, is decoded to just that request and takes a place at the tail of the queue. (R153, R154,
R155, R156, R158, R170) -/
def Obligations.RequestFrameIsAccepted : Prop :=
  ∀ (s : State) (p : Port) (tag : BitVec 2) (k : RequestCode) (body : List Octet),
    s.resetHeld = false → (s.port p).receiver = .inFrame ⟨[], 0, false⟩ →
    hasRight (s.port p).rights k = true → admitsLength k body.length = true → (s.port p).places.length < 4 →
    exec (.frameReceived p (escapeContent (frameContent 0 tag (codeOctet k) body))) s =
      .next (arbitrate (s.modPort p fun ps =>
        { ps with receiver := .looking, places := ps.places ++ [⟨⟨tag, k, body⟩, .waiting⟩] }))

/-- A request frame that fails step 6, 7, 8 or 9, in that order: BAD_CODE, NO_RIGHT, BAD_LENGTH or BUSY. Its refusal,
the status alone under the frame's tag and code, joins the refusal list; with four there the frame is dropped. Nothing
else changes but what is being sent. (R156, R157, R158, R159, R173) -/
def Obligations.RequestFrameIsRefused : Prop :=
  ∀ (s : State) (p : Port) (tag : BitVec 2) (code : Octet) (body : List Octet) (st : Octet),
    s.resetHeld = false → (s.port p).receiver = .inFrame ⟨[], 0, false⟩ → body.length ≤ 634 →
    ((codeOfOctet code = none ∧ st = 0x12) ∨
      (∃ k, codeOfOctet code = some k ∧
        ((hasRight (s.port p).rights k = false ∧ st = 0x15) ∨
          (hasRight (s.port p).rights k = true ∧ admitsLength k body.length = false ∧ st = 0x13) ∨
          (hasRight (s.port p).rights k = true ∧ admitsLength k body.length = true ∧ 4 ≤ (s.port p).places.length ∧
            st = 0x10)))) →
    ((s.port p).refusals.length < 4 →
      exec (.frameReceived p (escapeContent (frameContent 0 tag code body))) s =
        .next (s.modPort p fun ps =>
          startSending { ps with receiver := .looking, refusals := ps.refusals ++ [⟨tag, code, [st]⟩] })) ∧
    (4 ≤ (s.port p).refusals.length →
      exec (.frameReceived p (escapeContent (frameContent 0 tag code body))) s =
        .next (s.modPort p fun ps => countDrop { ps with receiver := .looking }))

/-- A frame that fails a step 1 to 5: fewer than six octets; two bits of the header in error; or, with the header as
the decode leaves it, wrong check sums, a wrong size, or the type REPLY or 3. It is a drop with LINK at this port, no
reply leaves, and a corrected header has been counted before. The two running sums modulo 255, octet by octet, the
second first in the check; and the layout of a content: header, code, body length with the high octet first, body,
check. A drop and a corrected header are each one more in their count, saturating, with LINK. (R154, R155, R156, R162,
R170) -/
def Obligations.BadFrameIsDropped : Prop :=
  (∀ ps : PortState,
    countDrop ps = { ps with
      drops := if ps.drops < 65535 then ps.drops + 1 else ps.drops, flags := { ps.flags with link := true } } ∧
    countCorrected ps = { ps with
      correctedHeaders := if ps.correctedHeaders < 65535 then ps.correctedHeaders + 1 else ps.correctedHeaders
      flags := { ps.flags with link := true } }) ∧
  (∃ sums : List Octet → Nat × Nat, sums [] = (0, 0) ∧
    (∀ octets o,
      let first := ((sums octets).1 + o.toNat) % 255
      sums (octets ++ [o]) = (first, ((sums octets).2 + first) % 255)) ∧
    ∀ octets, checkOctets octets = [BitVec.ofNat 8 (sums octets).2, BitVec.ofNat 8 (sums octets).1]) ∧
  (∀ (type tag : BitVec 2) (code : Octet) (body : List Octet),
    let front :=
      headerOctet (type ++ tag) :: code :: BitVec.ofNat 8 (body.length / 256) :: BitVec.ofNat 8 body.length :: body
    frameContent type tag code body = front ++ checkOctets front) ∧
  ∀ (s : State) (p : Port) (content : List Octet),
    s.resetHeld = false → (s.port p).receiver = .inFrame ⟨[], 0, false⟩ →
    ((content.length < 6 ∨ decodeHeader (content.headD 0) = .twoBits) →
      exec (.frameReceived p (escapeContent content)) s =
        .next (s.modPort p fun ps => countDrop { ps with receiver := .looking })) ∧
    ∀ h counted, 6 ≤ content.length → decodeHeader (content.headD 0) = .taken h counted →
      (640 < content.length ∨
        content.drop (content.length - 2) ≠ checkOctets (h :: (content.take (content.length - 2)).tail) ∨
        256 * (content.getD 2 0).toNat + (content.getD 3 0).toNat + 6 ≠ content.length ∨
        h.extractLsb' 2 2 = 1 ∨ h.extractLsb' 2 2 = 3) →
      exec (.frameReceived p (escapeContent content)) s =
        .next (s.modPort p fun ps => countDrop
          (if counted then countCorrected { ps with receiver := .looking } else { ps with receiver := .looking }))

/-- The header code: the sixteen valid octets are those of the table of R170, have an even number of ones and are
taken as received; any one bit in error is corrected, counted unless it is the parity bit; any two bits in error are
seen as such. (R154, R170) -/
def Obligations.HeaderCodeCorrectsOneBit : Prop :=
  (((List.range 16).map fun i => headerOctet (BitVec.ofNat 4 i)) =
    [0x00, 0xB1, 0xD2, 0x63, 0xE4, 0x55, 0x36, 0x87, 0x78, 0xC9, 0xAA, 0x1B, 0x9C, 0x2D, 0x4E, 0xFF]) ∧
  (∀ info : BitVec 4, oddOnes (headerOctet info) = false ∧ (headerOctet info).extractLsb' 0 4 = info ∧
    decodeHeader (headerOctet info) = .taken (headerOctet info) false) ∧
  (∀ (info : BitVec 4) (k : Fin 8),
    decodeHeader (headerOctet info ^^^ (1#8 <<< k.val)) = .taken (headerOctet info) (decide (k.val ≠ 7))) ∧
  ∀ (info : BitVec 4) (j k : Fin 8), j ≠ k →
    decodeHeader (headerOctet info ^^^ (1#8 <<< j.val) ^^^ (1#8 <<< k.val)) = .twoBits

/-- A frame whose header octet has one bit in error is taken as the frame without the error, after one corrected
header with LINK at this port; without either when the parity bit alone is in error. (R154, R162) -/
def Obligations.CorrectedHeaderFrameIsTaken : Prop :=
  ∀ (s : State) (p : Port) (type tag : BitVec 2) (code : Octet) (body : List Octet) (k : Fin 8),
    s.resetHeld = false → (s.port p).receiver = .inFrame ⟨[], 0, false⟩ → body.length ≤ 634 →
    exec (.frameReceived p (escapeContent
        ((headerOctet (type ++ tag) ^^^ (1#8 <<< k.val)) :: (frameContent type tag code body).tail))) s =
      exec (.frameReceived p (escapeContent (frameContent type tag code body)))
        (if k.val = 7 then s
          else s.modPort p fun ps =>
            { ps with
              correctedHeaders := if ps.correctedHeaders < 65535 then ps.correctedHeaders + 1 else ps.correctedHeaders
              flags := { ps.flags with link := true } })

/-- ABORT: each request of the queue that has not started is answered ABORTED, the status alone under its tag and
code, in its place; started and ended requests stay; nothing else of the port or of the part changes but what is being
sent. An ABORT frame received octet by octet does the same, whatever its tag, code and body (DEDUCED,
notes/assumptions/7.md). (R156, R160) -/
def Obligations.AbortAnswersWaitingRequests : Prop :=
  ∀ (s : State) (p : Port) (c : Content), s.resetHeld = false → (s.port p).receiver = .inFrame c →
    exec (.abortFrame p) s = .next (s.modPort p fun ps => startSending
      { ps with
        receiver := .looking
        places := ps.places.map fun pl =>
          match pl.progress with
          | .waiting => ⟨pl.request, .answered ⟨pl.request.tag, codeOctet pl.request.code, [0x11]⟩⟩
          | .inFlight => pl
          | .answered _ => pl }) ∧
    (c = ⟨[], 0, false⟩ → ∀ (tag : BitVec 2) (code : Octet) (body : List Octet), body.length ≤ 634 →
      exec (.frameReceived p (escapeContent (frameContent 2 tag code body))) s = exec (.abortFrame p) s)

/-- The end of a frame on LDO: a refusal leaves its list, a reply frees its place, and with LDO free the port begins
the oldest refusal, or else the reply of the oldest place when it is there; else LDO stays high. That a refusal stays
in its list until it has been sent in full is DEDUCED (notes/assumptions/6.md); that REPLY_SENT with nothing being
sent changes nothing is the model's (DESIGN CHOICE, notes/assumptions/1.md). (R158, R159) -/
def Obligations.SentFrameMakesRoomForTheNext : Prop :=
  (∀ (s : State) (p : Port), s.resetHeld = false →
    (∀ o, (s.port p).sending = some ⟨.refusal, o⟩ → exec (.replySent p) s = .next (s.modPort p fun ps =>
      startSending { ps with sending := none, refusals := ps.refusals.tail })) ∧
    (∀ o, (s.port p).sending = some ⟨.reply, o⟩ → exec (.replySent p) s = .next (s.modPort p fun ps =>
      startSending { ps with sending := none, places := ps.places.tail })) ∧
    ((s.port p).sending = none → exec (.replySent p) s = .next s)) ∧
  ∀ ps : PortState,
    (∀ f, ps.sending = some f → startSending ps = ps) ∧
    (ps.sending = none →
      (∀ r rest, ps.refusals = r :: rest →
        startSending ps =
          { ps with sending := some ⟨.refusal, frameLine (frameContent 1 r.tag r.code r.body)⟩ }) ∧
      (∀ req r rest, ps.refusals = [] → ps.places = ⟨req, .answered r⟩ :: rest →
        startSending ps =
          { ps with sending := some ⟨.reply, frameLine (frameContent 1 r.tag r.code r.body)⟩ }) ∧
      (ps.refusals = [] → headReply ps.places = none → startSending ps = ps))

/-! ## Queues and the arbiter -/

/-- An answer takes the first place not yet answered, and then LDO is looked at. An answered request leaves its queue,
by an owner's answer or by the engine's at the end of its operation: its place holds the reply, with its tag, its code
and the body in the byte order the port then holds; the places around it are as before, but for the mark of a grant.
(R143, R158, R159) -/
def Obligations.AnsweredRequestLeavesQueue : Prop :=
  (∀ (ps : PortState) (r : Request) (rep : Reply) (before after : List Place) (pl : Place),
    ps.places = before ++ pl :: after → (∀ x ∈ before, x.isAnswered = true) → pl.isAnswered = false →
    answerPlaces r rep ps = startSending { ps with places := before ++
      { pl with progress := .answered ⟨r.tag, codeOctet r.code, rep.octets ps.byteOrder⟩ } :: after }) ∧
  (∀ (s : State) (p : Port) (r : Request) (rep : Reply),
    s.answered p r rep = arbitrate (s.modPort p (answerPlaces r rep))) ∧
  (∀ (s : State) (p : Port) (r : Request) (rep : Reply), waitingHead s p = some r →
    ∃ before after after',
      (s.port p).places = before ++ ⟨r, .waiting⟩ :: after ∧ (∀ x ∈ before, x.isAnswered = true) ∧
      ((s.answered p r rep).port p).places =
        before ++ ⟨r, .answered ⟨r.tag, codeOctet r.code, rep.octets (s.port p).byteOrder⟩⟩ :: after' ∧
      after'.map Place.settled = after.map Place.settled) ∧
  ∀ (s : State) (c : Caller) (rep : Reply), c.discardReply = false →
    queueHead (s.port c.port).places = some ⟨c.request, .inFlight⟩ →
    ∃ before after after',
      (s.port c.port).places = before ++ ⟨c.request, .inFlight⟩ :: after ∧ (∀ x ∈ before, x.isAnswered = true) ∧
      ((finishOperation c rep s).port c.port).places =
        before ++ ⟨c.request, .answered ⟨c.request.tag, codeOctet c.request.code,
          rep.octets (s.port c.port).byteOrder⟩⟩ :: after' ∧
      after'.map Place.settled = after.map Place.settled

/-- Answering, by an owner block or by the engine, changes nothing but the engine, the arbiter, the queue places, and
what the answered port is sending. The end of an operation whose port was link-reset in flight places no reply: every
port is as before, but for the mark of a grant. (R143, R149, R150) -/
def Obligations.AnswersTouchOnlyQueues : Prop :=
  (∀ (s : State) (p q : Port) (r : Request) (rep : Reply),
    s.answered p r rep =
      { s with
        engine := (s.answered p r rep).engine, arbiter := (s.answered p r rep).arbiter
        ports := (s.answered p r rep).ports } ∧
    (s.answered p r rep).port q =
      { s.port q with
        places := ((s.answered p r rep).port q).places, sending := ((s.answered p r rep).port q).sending } ∧
    (q ≠ p → ((s.answered p r rep).port q).places.map Place.settled = (s.port q).places.map Place.settled ∧
      ((s.answered p r rep).port q).sending = (s.port q).sending)) ∧
  (∀ (s : State) (q : Port) (c : Caller) (rep : Reply),
    finishOperation c rep s =
      { s with
        engine := (finishOperation c rep s).engine, arbiter := (finishOperation c rep s).arbiter
        ports := (finishOperation c rep s).ports } ∧
    (finishOperation c rep s).port q =
      { s.port q with
        places := ((finishOperation c rep s).port q).places
        sending := ((finishOperation c rep s).port q).sending } ∧
    ((q ≠ c.port ∨ c.discardReply = true) →
      ((finishOperation c rep s).port q).places.map Place.settled = (s.port q).places.map Place.settled ∧
      ((finishOperation c rep s).port q).sending = (s.port q).sending))

/-- The grant decision: with the engine free, the first requester present in the rotation from the pointer (the order
A, B, C, SWEEP, and after SWEEP comes A again, as R144 gives it) is granted with burst count 1 and the pointer is not
moved; with none present nothing changes; with an operation in flight there is no decision. A granted port's head is
in flight, read in the byte order then held; a granted sweep begins a slice. The decision changes nothing but the
engine, the arbiter and the mark of the granted head in its place. (R146) -/
def Obligations.EmptyEngineIsGranted : Prop :=
  (rotationFrom (.port .a) = [.port .a, .port .b, .port .c, .sweep] ∧
    rotationFrom (.port .b) = [.port .b, .port .c, .sweep, .port .a] ∧
    rotationFrom (.port .c) = [.port .c, .sweep, .port .a, .port .b] ∧
    rotationFrom .sweep = [.sweep, .port .a, .port .b, .port .c]) ∧
  ∀ s : State,
    (∀ op, s.engine = some op → arbitrate s = s) ∧
    (s.engine = none →
      ((∀ q, present s q = false) → arbitrate s = s) ∧
      (∀ (i : Nat) (q : Requester), (rotationFrom s.arbiter.pointer)[i]? = some q → present s q = true →
        (∀ (j : Nat) (x : Requester), j < i → (rotationFrom s.arbiter.pointer)[j]? = some x → present s x = false) →
        (arbitrate s).arbiter = ⟨s.arbiter.pointer, some q, 1⟩ ∧
        (∀ p r, q = .port p → waitingHead s p = some r → ∃ before after,
          (s.port p).places = before ++ ⟨r, .waiting⟩ :: after ∧ (∀ x ∈ before, x.isAnswered = true) ∧
          arbitrate s =
            { s.modPort p (fun ps => { ps with places := before ++ ⟨r, .inFlight⟩ :: after }) with
              engine := some (.granted ⟨p, r, (s.port p).byteOrder, false⟩)
              arbiter := ⟨s.arbiter.pointer, some (.port p), 1⟩ }) ∧
        (q = .sweep → arbitrate s =
          { s with engine := some (.slice 0 .arrive), arbiter := ⟨s.arbiter.pointer, some .sweep, 1⟩ })))

/-- The decision at the end of a port's operation, on the state t that the operation has left with its reply placed:
below the quota and with an engine request at the head the burst goes on, without a search, the count one higher; else
the grant passes on, the pointer to the requester after the port, and a grant decision follows. The head is marked in
its place. (R147, R149) -/
def Obligations.BurstIsDecidedAtTheEnd : Prop :=
  ∀ (c : Caller) (rep : Reply) (s t : State),
    t = (if c.discardReply then { s with engine := none }
      else ({ s with engine := none } : State).modPort c.port (answerPlaces c.request rep)) →
    (∀ r, waitingHead t c.port = some r → isEngineWork r.code = true →
      s.arbiter.burst < (s.port c.port).quota →
      (finishOperation c rep s).engine = some (.granted ⟨c.port, r, (s.port c.port).byteOrder, false⟩) ∧
      (finishOperation c rep s).arbiter = ⟨s.arbiter.pointer, some (.port c.port), s.arbiter.burst + 1⟩ ∧
      ∃ before after, (t.port c.port).places = before ++ ⟨r, .waiting⟩ :: after ∧
        (∀ x ∈ before, x.isAnswered = true) ∧
        ((finishOperation c rep s).port c.port).places = before ++ ⟨r, .inFlight⟩ :: after) ∧
    ((waitingHead t c.port = none ∨ (∃ r, waitingHead t c.port = some r ∧ isEngineWork r.code = false) ∨
        (s.port c.port).quota ≤ s.arbiter.burst) →
      finishOperation c rep s =
        arbitrate { t with arbiter := ⟨(match c.port with | .a => .port .b | .b => .port .c | .c => .sweep), none, 0⟩ })

/-! ## Reference data -/

/-- Stage Lot: BAD_VALUE without effect for a wrong process or lot 0; else the staging lot is the carried record with
densities at most 4000 and corrections in −500..500, and the reply lists the clamped fields, 0..11 for references and
16..27 for corrections, ascending. (R22, R23, R172, R175) -/
def Obligations.StageLotKeepsTheClampedRecord : Prop :=
  ∀ (s : State) (p : Port) (r : Request), AtHead s p .stageLot r →
    let o := (s.port p).byteOrder
    let b := r.body
    ((1 < u8 b 0 ∨ u16 o b 1 = 0) → exec (.stageLot p) s = .next (s.answered p r (.bare .badValue))) ∧
    ∀ pr, u8 b 0 = processNumber pr → u16 o b 1 ≠ 0 →
      ∃ (st : StagedLot) (clamped : List Nat),
        exec (.stageLot p) s = .next ((s.modPort p fun ps => { ps with stagingLot := some st }).answered p r
          ⟨if clamped = [] then .ok else .clamped, .o8 clamped.length :: clamped.map Field.o8⟩) ∧
        st.process = pr ∧ st.number = u16 o b 1 ∧
        (∀ pa ch, st.values.densities.item pa ch = min 4000 (u16 o b (7 + 2 * itemNumber pa ch))) ∧
        (∀ g ch, st.values.corrections.pv g ch = max (-500) (min 500 (s16 o b (31 + 2 * pvNumber g ch)))) ∧
        st.values.lastUsable = (if bit8 b 4 0 then some (u16 o b 5) else none) ∧
        clamped.Pairwise (· < ·) ∧
        ∀ i, i ∈ clamped ↔
          (i < 12 ∧ 4000 < u16 o b (7 + 2 * i)) ∨
          (16 ≤ i ∧ i < 28 ∧ (s16 o b (31 + 2 * (i - 16)) < -500 ∨ 500 < s16 o b (31 + 2 * (i - 16))))

/-- Promote Lot on a staged lot that passes the checks of R25 and R26: in one step the record enters the active table
with revision 1 and store count 0, or replaces the lot with the next revision and its count kept; every other lot is
as before; TABLE at all ports; the staging lot stays. (R18, R26, R27, R35) -/
def Obligations.PromoteLotReplacesTheRecord : Prop :=
  ∀ (s : State) (p : Port) (r : Request) (st : StagedLot), AtHead s p .promoteLot r →
    (s.port p).stagingLot = some st → inconsistentChannel st.values = none →
    let lots := (s.table st.process).lots
    lots.Pairwise (fun x y => x.number < y.number) →
    ((findLot lots st.number = none ∧ u8 r.body 0 = 0 ∧ lots.length < 16) ∨
      (∃ l, findLot lots st.number = some l ∧ u8 r.body 0 ≠ 0 ∧ u8 r.body 0 = l.revision)) →
    ∃ (l : LotRecord) (lots' : List LotRecord),
      exec (.promoteLot p) s =
        .next ((raiseAll .table (s.setTable st.process { s.table st.process with lots := lots' })).answered p r
          ⟨.ok, [.o8 (processNumber st.process), .o16 st.number, .o8 l.revision]⟩) ∧
      l.number = st.number ∧ l.values = st.values ∧
      (findLot lots st.number = none → l.revision = 1 ∧ l.storeCount = 0) ∧
      (∀ x, findLot lots st.number = some x →
        l.revision = (if x.revision < 255 then x.revision + 1 else 1) ∧ l.storeCount = x.storeCount) ∧
      lots'.Pairwise (fun x y => x.number < y.number) ∧
      ∀ n, findLot lots' n = if n = st.number then some l else findLot lots n

/-- Promote Lot refused, in this order, with nothing changed: NO_STAGING; INCONSISTENT with the first channel that
fails DMIN ≤ LOW ≤ HIGH; REVISION_MISMATCH with the current revision, 0 for a lot that is not active; TABLE_FULL.
(R25, R26) -/
def Obligations.PromoteLotRefusals : Prop :=
  ∀ (s : State) (p : Port) (r : Request), AtHead s p .promoteLot r →
    ((s.port p).stagingLot = none → exec (.promoteLot p) s = .next (s.answered p r (.bare .noStaging))) ∧
    ∀ st, (s.port p).stagingLot = some st →
      let d := st.values.densities
      let passes := fun ch => d.item .dmin ch ≤ d.item .low ch ∧ d.item .low ch ≤ d.item .high ch
      let lots := (s.table st.process).lots
      (¬ passes .r → exec (.promoteLot p) s = .next (s.answered p r ⟨.inconsistent, [.o8 0]⟩)) ∧
      (passes .r → ¬ passes .g → exec (.promoteLot p) s = .next (s.answered p r ⟨.inconsistent, [.o8 1]⟩)) ∧
      (passes .r → passes .g → ¬ passes .b →
        exec (.promoteLot p) s = .next (s.answered p r ⟨.inconsistent, [.o8 2]⟩)) ∧
      ((∀ ch, passes ch) →
        (findLot lots st.number = none → u8 r.body 0 ≠ 0 →
          exec (.promoteLot p) s = .next (s.answered p r ⟨.revisionMismatch, [.o8 0]⟩)) ∧
        (∀ l, findLot lots st.number = some l → (u8 r.body 0 = 0 ∨ u8 r.body 0 ≠ l.revision) →
          exec (.promoteLot p) s = .next (s.answered p r ⟨.revisionMismatch, [.o8 l.revision]⟩)) ∧
        (findLot lots st.number = none → u8 r.body 0 = 0 → 16 ≤ lots.length →
          exec (.promoteLot p) s = .next (s.answered p r (.bare .tableFull))))

/-- Retire Lot: BAD_VALUE for a wrong process or lot 0; NOT_FOUND; IN_USE with the store count, nothing changed; else
the lot leaves the table, every other lot is as before, and TABLE is set at all ports. (R30, R35) -/
def Obligations.RetireLotRemovesAnUnusedLot : Prop :=
  ∀ (s : State) (p : Port) (r : Request), AtHead s p .retireLot r →
    let o := (s.port p).byteOrder
    let b := r.body
    ((1 < u8 b 0 ∨ u16 o b 1 = 0) → exec (.retireLot p) s = .next (s.answered p r (.bare .badValue))) ∧
    ∀ pr, u8 b 0 = processNumber pr → u16 o b 1 ≠ 0 →
      let lots := (s.table pr).lots
      (findLot lots (u16 o b 1) = none → exec (.retireLot p) s = .next (s.answered p r (.bare .notFound))) ∧
      ∀ l, findLot lots (u16 o b 1) = some l →
        (0 < l.storeCount → exec (.retireLot p) s = .next (s.answered p r ⟨.inUse, [.o16 l.storeCount]⟩)) ∧
        (l.storeCount = 0 → ∃ lots',
          exec (.retireLot p) s =
            .next ((raiseAll .table (s.setTable pr { s.table pr with lots := lots' })).answered p r (.bare .ok)) ∧
          findLot lots' (u16 o b 1) = none ∧ (∀ n, n ≠ u16 o b 1 → findLot lots' n = findLot lots n) ∧
          lots'.Sublist lots)

/-- Read Lot, List Lots and Read Profile change nothing but the queue they are answered from: the active record, the
port's own staged record (revision and store count 0), the lots in table order, or BAD_VALUE, NOT_FOUND, NO_STAGING.
The two record layouts, field by field; a lot is active when a record of its table has its number; a table written is
read back and the other kept. (R17, R32, R33, R34, R175) -/
def Obligations.ReferenceReadsChangeNothing : Prop :=
  (∀ (lots : List LotRecord) (n : Nat),
    (findLot lots n = none ↔ ∀ l ∈ lots, l.number ≠ n) ∧ ∀ l, findLot lots n = some l → l ∈ lots ∧ l.number = n) ∧
  (∀ (s : State) (pr : Process) (n : Nat), lotActive s pr n = true ↔ ∃ l ∈ (s.table pr).lots, l.number = n) ∧
  (∀ (s : State) (pr : Process) (t : ProcTable),
    s.setTable pr t = { s with refs := (s.setTable pr t).refs } ∧
    ∀ qr, (s.setTable pr t).table qr = if qr = pr then t else s.table qr) ∧
  (∀ (pr : Process) (number revision : Nat) (v : LotValues) (count : Nat),
    lotFields pr number revision v count =
      [Field.o8 (processNumber pr), Field.o16 number, Field.o8 revision,
        Field.o8 (if v.lastUsable.isSome then 1 else 0), Field.o16 (v.lastUsable.getD 0)] ++
      (([.dmin, .low, .high, .dmax] : List Patch).flatMap fun pa =>
        ([.r, .g, .b] : List Channel).map fun ch => Field.o16 (v.densities.item pa ch)) ++
      (([.base, .speed, .contrast, .top] : List Group).flatMap fun g =>
        ([.r, .g, .b] : List Channel).map fun ch => Field.o16s (v.corrections.pv g ch)) ++
      [Field.o16 count]) ∧
  (∀ (pr : Process) (revision : Nat) (v : ProfileValues),
    profileFields pr revision v =
      [Field.o8 (processNumber pr), Field.o8 revision] ++
      (([.base, .speed, .contrast, .top] : List Group).flatMap fun g =>
        let l := v.limits.get g
        [Field.o16 l.cl, Field.o16 l.al, Field.o16 l.sl, Field.o16 l.dl, Field.o16 l.rb]) ++
      [Field.o8 v.weight, Field.o8 v.runLength, Field.o8 v.overdueLimit,
        Field.o8 ((if v.plotted.base then 1 else 0) + (if v.plotted.speed then 2 else 0) +
          (if v.plotted.contrast then 4 else 0) + (if v.plotted.top then 8 else 0))]) ∧
  ∀ (s : State) (p : Port) (r : Request),
    let o := (s.port p).byteOrder
    let b := r.body
    (AtHead s p .readLot r →
      (u8 b 0 = 0 → (1 < u8 b 1 ∨ u16 o b 2 = 0) → exec (.readLot p) s = .next (s.answered p r (.bare .badValue))) ∧
      (∀ pr, u8 b 0 = 0 → u8 b 1 = processNumber pr → u16 o b 2 ≠ 0 →
        (findLot (s.table pr).lots (u16 o b 2) = none →
          exec (.readLot p) s = .next (s.answered p r (.bare .notFound))) ∧
        (∀ l, findLot (s.table pr).lots (u16 o b 2) = some l →
          exec (.readLot p) s =
            .next (s.answered p r ⟨.ok, lotFields pr l.number l.revision l.values l.storeCount⟩))) ∧
      (u8 b 0 = 1 → (s.port p).stagingLot = none → exec (.readLot p) s = .next (s.answered p r (.bare .noStaging))) ∧
      (∀ st, u8 b 0 = 1 → (s.port p).stagingLot = some st →
        exec (.readLot p) s = .next (s.answered p r ⟨.ok, lotFields st.process st.number 0 st.values 0⟩)) ∧
      (1 < u8 b 0 → exec (.readLot p) s = .next (s.answered p r (.bare .badValue)))) ∧
    (AtHead s p .listLots r →
      (1 < u8 b 0 → exec (.listLots p) s = .next (s.answered p r (.bare .badValue))) ∧
      ∀ pr, u8 b 0 = processNumber pr →
        exec (.listLots p) s = .next (s.answered p r ⟨.ok, .o8 (s.table pr).lots.length ::
          (s.table pr).lots.flatMap fun l =>
            [.o16 l.number, .o8 l.revision, .o8 (if l.values.lastUsable.isSome then 1 else 0),
              .o16 (l.values.lastUsable.getD 0), .o16 l.storeCount]⟩)) ∧
    (AtHead s p .readProfile r →
      (u8 b 0 = 0 → 1 < u8 b 1 → exec (.readProfile p) s = .next (s.answered p r (.bare .badValue))) ∧
      (∀ pr, u8 b 0 = 0 → u8 b 1 = processNumber pr →
        exec (.readProfile p) s = .next (s.answered p r
          ⟨.ok, profileFields pr (s.table pr).profile.revision (s.table pr).profile.values⟩)) ∧
      (u8 b 0 = 1 → (s.port p).stagingProfile = none →
        exec (.readProfile p) s = .next (s.answered p r (.bare .noStaging))) ∧
      (∀ st, u8 b 0 = 1 → (s.port p).stagingProfile = some st →
        exec (.readProfile p) s = .next (s.answered p r ⟨.ok, profileFields st.process 0 st.values⟩)) ∧
      (1 < u8 b 0 → exec (.readProfile p) s = .next (s.answered p r (.bare .badValue))))

/-- Stage Profile: BAD_VALUE without effect for a wrong process; else the staging profile is the carried record with
each numeric field brought to the nearer end of its range and the plotted groups as carried; the reply is CLAMPED with
the clamped fields, or OK. (R22, R24, R172, R175) -/
def Obligations.StageProfileKeepsTheClampedRecord : Prop :=
  ∀ (s : State) (p : Port) (r : Request), AtHead s p .stageProfile r →
    let o := (s.port p).byteOrder
    let b := r.body
    (1 < u8 b 0 → exec (.stageProfile p) s = .next (s.answered p r (.bare .badValue))) ∧
    ∀ pr, u8 b 0 = processNumber pr →
      ∃ (st : StagedProfile) (clamped : List Nat),
        exec (.stageProfile p) s = .next ((s.modPort p fun ps => { ps with stagingProfile := some st }).answered p r
          ⟨if clamped = [] then .ok else .clamped, .o8 clamped.length :: clamped.map Field.o8⟩) ∧
        st.process = pr ∧
        (∀ g,
          (st.values.limits.get g).cl = max 1 (min 1000 (u16 o b (2 + 10 * g.number))) ∧
          (st.values.limits.get g).al = max 1 (min 1000 (u16 o b (4 + 10 * g.number))) ∧
          (st.values.limits.get g).sl = max 1 (min 2000 (u16 o b (6 + 10 * g.number))) ∧
          (st.values.limits.get g).dl = max 1 (min 1000 (u16 o b (8 + 10 * g.number))) ∧
          (st.values.limits.get g).rb = min 1000 (u16 o b (10 + 10 * g.number))) ∧
        st.values.weight = max 1 (min 16 (u8 b 42)) ∧ st.values.runLength = max 2 (min 15 (u8 b 43)) ∧
        st.values.overdueLimit = max 1 (min 15 (u8 b 44)) ∧
        st.values.plotted = ⟨bit8 b 45 0, bit8 b 45 1, bit8 b 45 2, bit8 b 45 3⟩ ∧
        clamped.Pairwise (· < ·) ∧
        ∀ i, i ∈ clamped ↔
          (i < 4 ∧ (u16 o b (2 + 10 * i) < 1 ∨ 1000 < u16 o b (2 + 10 * i))) ∨
          (4 ≤ i ∧ i < 8 ∧ (u16 o b (4 + 10 * (i - 4)) < 1 ∨ 1000 < u16 o b (4 + 10 * (i - 4)))) ∨
          (8 ≤ i ∧ i < 12 ∧ (u16 o b (8 + 10 * (i - 8)) < 1 ∨ 1000 < u16 o b (8 + 10 * (i - 8)))) ∨
          (12 ≤ i ∧ i < 16 ∧ (u16 o b (6 + 10 * (i - 12)) < 1 ∨ 2000 < u16 o b (6 + 10 * (i - 12)))) ∨
          (16 ≤ i ∧ i < 20 ∧ 1000 < u16 o b (10 + 10 * (i - 16))) ∨
          (i = 20 ∧ (u8 b 42 < 1 ∨ 16 < u8 b 42)) ∨ (i = 21 ∧ (u8 b 43 < 2 ∨ 15 < u8 b 43)) ∨
          (i = 22 ∧ (u8 b 44 < 1 ∨ 15 < u8 b 44))

/-- Promote Profile: the four checks in order, each refusal with nothing changed; when they pass, the staged values
replace the active profile of their process with the next revision, TABLE is set at all ports and the staging profile
stays. (R21, R28, R35) -/
def Obligations.PromoteProfileInOrder : Prop :=
  ∀ (s : State) (p : Port) (r : Request), AtHead s p .promoteProfile r →
    ((s.port p).stagingProfile = none → exec (.promoteProfile p) s = .next (s.answered p r (.bare .noStaging))) ∧
    ∀ st, (s.port p).stagingProfile = some st →
      let l := st.values.limits
      let active := (s.table st.process).profile
      let none' := st.values.plotted = ⟨false, false, false, false⟩
      (l.base.al < l.base.cl →
        exec (.promoteProfile p) s = .next (s.answered p r ⟨.inconsistent, [.o8 0]⟩)) ∧
      (l.base.cl ≤ l.base.al → l.speed.al < l.speed.cl →
        exec (.promoteProfile p) s = .next (s.answered p r ⟨.inconsistent, [.o8 1]⟩)) ∧
      (l.base.cl ≤ l.base.al → l.speed.cl ≤ l.speed.al → l.contrast.al < l.contrast.cl →
        exec (.promoteProfile p) s = .next (s.answered p r ⟨.inconsistent, [.o8 2]⟩)) ∧
      (l.base.cl ≤ l.base.al → l.speed.cl ≤ l.speed.al → l.contrast.cl ≤ l.contrast.al → l.top.al < l.top.cl →
        exec (.promoteProfile p) s = .next (s.answered p r ⟨.inconsistent, [.o8 3]⟩)) ∧
      ((∀ g, (l.get g).cl ≤ (l.get g).al) →
        (none' → exec (.promoteProfile p) s = .next (s.answered p r ⟨.inconsistent, [.o8 4]⟩)) ∧
        (¬ none' → u8 r.body 0 ≠ active.revision →
          exec (.promoteProfile p) s = .next (s.answered p r ⟨.revisionMismatch, [.o8 active.revision]⟩)) ∧
        (¬ none' → u8 r.body 0 = active.revision →
          let next := if active.revision < 255 then active.revision + 1 else 1
          exec (.promoteProfile p) s =
            .next ((raiseAll .table (s.setTable st.process
              { s.table st.process with profile := ⟨st.values, next⟩ })).answered p r
                ⟨.ok, [.o8 (processNumber st.process), .o8 next]⟩)))

/-! ## Patterns -/

/-- Write Pattern: BAD_VALUE without effect at the first of the three checks that fails; else every field of the entry
is replaced, code and severity clamped and reported, the generation advances modulo 256, every other entry is as
before, and TABLE is set at all ports. (R95, R96, R172) -/
def Obligations.WritePatternReplacesTheEntry : Prop :=
  ∀ (s : State) (p : Port) (r : Request), AtHead s p .writePattern r →
    let o := (s.port p).byteOrder
    let b := r.body
    let valid := (∀ i, i < 12 → u8 b (4 + i) ≤ 3) ∧ ∀ i, i < 4 → u8 b (16 + i) ≤ 1
    ((15 < u8 b 0 ∨ 3 < u8 b 20 ∨ ¬ valid) →
      exec (.writePattern p) s = .next (s.answered p r (.bare .badValue))) ∧
    ∀ n : Fin 16, u8 b 0 = n.val → u8 b 20 ≤ 3 → valid →
      ∃ (e : PatternEntry) (clamped : List Nat),
        exec (.writePattern p) s =
          .next ((raiseAll .table { s with patterns := s.patterns.set n.val e }).answered p r
            ⟨if clamped = [] then .ok else .clamped,
              [.o8 n.val, .o8 e.generation, .o8 clamped.length] ++ clamped.map Field.o8⟩) ∧
        e.enabled = bit8 b 1 0 ∧ e.care.toNat = u16 o b 2 ∧
        (∀ g ch, expectNumber (e.expectPv.pv g ch) = u8 b (4 + pvNumber g ch)) ∧
        (∀ g, spreadNumber (e.expectSpread.get g) = u8 b (16 + g.number)) ∧
        persistenceNumber e.mode = u8 b 20 ∧ e.code = max 1 (min 59 (u8 b 21)) ∧
        severityNumber e.severity = min 3 (u8 b 22) ∧
        e.generation = (s.patterns[n].generation + 1) % 256 ∧
        clamped = (if u8 b 21 < 1 ∨ 59 < u8 b 21 then [0] else []) ++ (if 3 < u8 b 22 then [1] else [])

/-- Read Pattern, Read Calendar and Identify change nothing but the queue they are answered from, and answer what they
name. (R98, R130, R168) -/
def Obligations.OtherReadsChangeNothing : Prop :=
  ∀ (s : State) (p : Port) (r : Request),
    (AtHead s p .readPattern r →
      (15 < u8 r.body 0 → exec (.readPattern p) s = .next (s.answered p r (.bare .badValue))) ∧
      ∀ n : Fin 16, u8 r.body 0 = n.val →
        let e := s.patterns[n]
        exec (.readPattern p) s = .next (s.answered p r
          ⟨.ok, [.o8 n.val, .o8 (if e.enabled then 1 else 0), .o16 e.care.toNat] ++
            (([.base, .speed, .contrast, .top] : List Group).flatMap fun g =>
              ([.r, .g, .b] : List Channel).map fun ch => Field.o8 (expectNumber (e.expectPv.pv g ch))) ++
            (([.base, .speed, .contrast, .top] : List Group).map fun g =>
              Field.o8 (spreadNumber (e.expectSpread.get g))) ++
            [.o8 (persistenceNumber e.mode), .o8 e.code, .o8 (severityNumber e.severity), .o8 e.generation]⟩)) ∧
    (AtHead s p .readCalendar r →
      exec (.readCalendar p) s = .next (s.answered p r
        ⟨.ok, [.o16 s.calendar.day, .o8 s.calendar.lateWindow, .o8 (sweepStateNumber s.calendar.sweep),
          .o16 s.calendar.closingDay, .o16 s.calendar.nextStore, .o16 s.calendar.enrolment]⟩)) ∧
    (AtHead s p .identify r →
      let g := (s.port p).rights
      exec (.identify p) s = .next (s.answered p r
        ⟨.ok, [.o16 0x7140, .o8 0x02, .o8 (portNumber p),
          .o8 ((if g.post then 1 else 0) + (if g.edit then 2 else 0) + (if g.ack then 4 else 0) +
            (if g.cal then 8 else 0)),
          .o16 1024, .o8 16, .o8 16, .o8 64, .o8 4]⟩))

/-! ## Notices -/

/-- The Notice Queue takes an offer as one step: it merges it into the entry of its chart and class, inserts it at the
tail under the first free id from the counter on, or refuses it when 64 entries are held; with the event flags of each
at all three ports. A refused offer leaves the queue as it is, and the operation sets the owed mark of its class, its
notice id 0; a merged or inserted one sets no mark and its id is the entry's. Each class has its own mark. Entries
hold ids 1..65535 and one entry for each chart and class, as NoticeQueueKeepsItsForm states. (R47, R113, R114, R115,
R116, R117, R118, R119, R120) -/
def Obligations.OfferIsMergedInsertedOrRefused : Prop :=
  (∀ (o : Offer) (s : State),
    ((takeOffer o s).1 ≠ .refused → offerOrOwe o s = takeOffer o s) ∧
    ((takeOffer o s).1 = .refused → offerOrOwe o s =
      (.refused, (takeOffer o s).2.modChart o.store o.process fun c => { c with owed := c.owed.mark o.cls }))) ∧
  (∀ id, (OfferAnswer.merged id).noticeId = id ∧ (OfferAnswer.inserted id).noticeId = id ∧
    OfferAnswer.refused.noticeId = 0) ∧
  (∀ w : Owed,
    w.mark .condition = { w with condition := true } ∧ w.mark .attendance = { w with attendance := true } ∧
    w.mark .held = { w with held := true } ∧
    w.clear .condition = { w with condition := false } ∧ w.clear .attendance = { w with attendance := false } ∧
    w.clear .held = { w with held := false } ∧
    w.get .condition = w.condition ∧ w.get .attendance = w.attendance ∧ w.get .held = w.held) ∧
  ∀ (o : Offer) (s : State), NoticesOk s →
    (∀ e before after, s.notices.entries = before ++ e :: after →
      e.store = o.store → e.process = o.process → e.cls = o.cls →
      takeOffer o s =
        (.merged e.id, raiseAll .notice { s with notices := { s.notices with entries := before ++
          { e with
            occurrences := min 255 (e.occurrences + 1), lastDay := o.day, kind := o.kind, latestCode := o.code
            matched := o.matched, deviations := o.deviations, missed := o.missed, parkedLot := o.parkedLot
            severity := if severityNumber e.severity < severityNumber o.severity then o.severity else e.severity
            peakCode := if severityNumber e.severity < severityNumber o.severity then o.code else e.peakCode } ::
          after } })) ∧
    ((∀ e ∈ s.notices.entries, ¬ (e.store = o.store ∧ e.process = o.process ∧ e.cls = o.cls)) →
      (s.notices.entries.length < 64 → ∃ id k,
        id = (s.notices.nextId - 1 + k) % 65535 + 1 ∧ (∀ e ∈ s.notices.entries, e.id ≠ id) ∧
        (∀ j, j < k → ∃ e ∈ s.notices.entries, e.id = (s.notices.nextId - 1 + j) % 65535 + 1) ∧
        takeOffer o s =
          (.inserted id, (if s.notices.entries.length = 47 then raiseAll .high else fun t => t)
            (raiseAll .notice { s with notices := ⟨s.notices.entries ++
              [⟨id, o.cls, o.kind, o.store, o.process, o.day, o.day, 1, o.severity, o.code, o.code, o.matched,
                o.deviations, o.missed, o.parkedLot⟩], id % 65535 + 1⟩ }))) ∧
      (s.notices.entries.length = 64 →
        takeOffer o s = (.refused, raiseAll .owed s) ∧
        offerOrOwe o s = (.refused, (raiseAll .owed s).modChart o.store o.process fun c =>
          { c with owed := c.owed.mark o.cls })))

/-- List Notices: BAD_VALUE for a maximum outside 1..8; else up to the maximum of entries in queue order, from the
head, or after the entry of the id; the restarted mark for an id that is not held, the more mark when entries follow;
nothing changes. The layout of an entry, field by field. (R121, R122, R176) -/
def Obligations.ListNoticesShowsTheQueue : Prop :=
  (∀ e : Notice, noticeFields e =
    [Field.o16 e.id, Field.o8 (match e.cls with | .condition => 0 | .attendance => 1 | .held => 2),
      Field.o8 (match e.kind with | .drift => 0 | .overdue => 1 | .resumed => 2 | .unknownLot => 3), Field.o16 e.store,
      Field.o8 (processNumber e.process), Field.o16 e.firstDay, Field.o16 e.lastDay, Field.o8 e.occurrences,
      Field.o8 (severityNumber e.severity), Field.o8 e.peakCode, Field.o8 e.latestCode, Field.o16 e.matched.toNat,
      Field.o16 (match e.cls with | .condition => 0 | .attendance => e.missed.getD 0 | .held => e.parkedLot.getD 0),
      Field.o8 e.deviations.length] ++ e.deviations.flatMap fun x => [Field.o8 x.1, Field.o16s x.2]) ∧
  ∀ (s : State) (p : Port) (r : Request), AtHead s p .listNotices r →
    let id := u16 (s.port p).byteOrder r.body 0
    let most := u8 r.body 2
    let reply := fun (entries : List Notice) (restarted : Nat) =>
      (⟨.ok, [.o8 s.notices.entries.length, .o8 ((if most < entries.length then 1 else 0) + restarted),
        .o8 (entries.take most).length] ++ (entries.take most).flatMap noticeFields⟩ : Reply)
    ((most < 1 ∨ 8 < most) → exec (.listNotices p) s = .next (s.answered p r (.bare .badValue))) ∧
    (1 ≤ most → most ≤ 8 →
      (id = 0 → exec (.listNotices p) s = .next (s.answered p r (reply s.notices.entries 0))) ∧
      (id ≠ 0 → (∀ e ∈ s.notices.entries, e.id ≠ id) →
        exec (.listNotices p) s = .next (s.answered p r (reply s.notices.entries 2))) ∧
      ∀ before e after, s.notices.entries = before ++ e :: after → e.id = id → id ≠ 0 →
        (∀ x ∈ before, x.id ≠ id) →
        exec (.listNotices p) s = .next (s.answered p r (reply after 0)))

/-- Acknowledge Notice: BAD_VALUE for occurrences-seen 0; NOT_FOUND; CHANGED with the entry's occurrences and last
day; each with nothing changed. Else the entry is removed and the gap closes; no chart and no flag changes. (R112,
R123) -/
def Obligations.AcknowledgeRemovesTheEntry : Prop :=
  ∀ (s : State) (p : Port) (r : Request), AtHead s p .acknowledgeNotice r →
    let id := u16 (s.port p).byteOrder r.body 0
    let seen := u8 r.body 2
    (seen = 0 → exec (.acknowledgeNotice p) s = .next (s.answered p r (.bare .badValue))) ∧
    (seen ≠ 0 → (∀ e ∈ s.notices.entries, e.id ≠ id) →
      exec (.acknowledgeNotice p) s = .next (s.answered p r (.bare .notFound))) ∧
    ∀ before e after, seen ≠ 0 → s.notices.entries = before ++ e :: after → e.id = id →
      (∀ x ∈ before ++ after, x.id ≠ id) →
      (e.occurrences ≠ seen → exec (.acknowledgeNotice p) s =
        .next (s.answered p r ⟨.changed, [.o8 e.occurrences, .o16 e.lastDay]⟩)) ∧
      (e.occurrences = seen → exec (.acknowledgeNotice p) s =
        .next (({ s with notices := { s.notices with entries := before ++ after } }).answered p r
          ⟨.ok, [.o16 id]⟩))

/-! ## Calendar -/

/-- Close Day: SWEEP_ACTIVE while SWEEPING, CALENDAR_END at day 65535, nothing changed; else in one step D becomes C,
C rises by one and the sweep starts at store 0; the reply is STARTED with D. The sweep's appearance is taken first, so
that with the engine free and no port present the first slice is granted at once, and an operation in flight is kept
(DEDUCED, notes/assumptions/14.md). Set Calendar: CALENDAR_LOCKED while the enrolment count is not 0, then
SWEEP_ACTIVE while SWEEPING, nothing changed; else C becomes the carried day. Set Late Window: W becomes the carried
value, at most 14, with CLAMPED above it. (R128, R129, R131, R146, R148) -/
def Obligations.CalendarIsClosedAndSet : Prop :=
  (∀ (s : State) (p : Port) (r : Request), AtHead s p .closeDay r →
     (s.calendar.sweep = .sweeping → exec (.closeDay p) s = .next (s.answered p r (.bare .sweepActive))) ∧
     (s.calendar.sweep = .idle → 65535 ≤ s.calendar.day →
       exec (.closeDay p) s = .next (s.answered p r (.bare .calendarEnd))) ∧
     (s.calendar.sweep = .idle → s.calendar.day < 65535 →
       exec (.closeDay p) s =
         .next ((arbitrate { s with calendar :=
           { s.calendar with
             closingDay := s.calendar.day, day := s.calendar.day + 1, sweep := .sweeping, nextStore := 0 } }).answered
               p r ⟨.started, [.o16 s.calendar.day]⟩)) ∧
     (∀ t, s.calendar.sweep = .idle → s.calendar.day < 65535 → exec (.closeDay p) s = .next t →
       (s.engine = none → (∀ q, present s (.port q) = false) →
         t.engine = some (.slice 0 .arrive) ∧ t.arbiter = ⟨s.arbiter.pointer, some .sweep, 1⟩) ∧
       (s.engine ≠ none → t.engine = s.engine ∧ t.arbiter = s.arbiter))) ∧
  ∀ (s : State) (p : Port) (r : Request),
    (AtHead s p .setCalendar r →
      let day := u16 (s.port p).byteOrder r.body 0
      (s.calendar.enrolment ≠ 0 → exec (.setCalendar p) s = .next (s.answered p r (.bare .calendarLocked))) ∧
      (s.calendar.enrolment = 0 → s.calendar.sweep = .sweeping →
        exec (.setCalendar p) s = .next (s.answered p r (.bare .sweepActive))) ∧
      (s.calendar.enrolment = 0 → s.calendar.sweep = .idle →
        exec (.setCalendar p) s =
          .next (({ s with calendar := { s.calendar with day := day } }).answered p r ⟨.ok, [.o16 day]⟩))) ∧
    (AtHead s p .setLateWindow r →
      (u8 r.body 0 ≤ 14 → exec (.setLateWindow p) s =
        .next (({ s with calendar := { s.calendar with lateWindow := u8 r.body 0 } }).answered p r
          ⟨.ok, [.o8 (u8 r.body 0)]⟩)) ∧
      (14 < u8 r.body 0 → exec (.setLateWindow p) s =
        .next (({ s with calendar := { s.calendar with lateWindow := 14 } }).answered p r ⟨.clamped, [.o8 14]⟩)))

/-! ## Port options, windows, flags -/

/-- Set Window: BAD_VALUE without effect for a wrong port, then a wrong size, then a base above 1023; else the named
port's window is the carried size with the base cleared down to a multiple of it, inside 0..1023. (R163) -/
def Obligations.SetWindowAlignsTheBase : Prop :=
  ∀ (s : State) (p : Port) (r : Request), AtHead s p .setWindow r →
    let o := (s.port p).byteOrder
    let base := u16 o r.body 1
    let size := u16 o r.body 3
    let sizeOk := size = 16 ∨ size = 32 ∨ size = 64 ∨ size = 128 ∨ size = 256 ∨ size = 512 ∨ size = 1024
    ((2 < u8 r.body 0 ∨ ¬ sizeOk ∨ 1023 < base) →
      exec (.setWindow p) s = .next (s.answered p r (.bare .badValue))) ∧
    ∀ q, u8 r.body 0 = portNumber q → sizeOk → base ≤ 1023 →
      ∃ stored, stored % size = 0 ∧ stored ≤ base ∧ base < stored + size ∧ stored + size ≤ 1024 ∧
        exec (.setWindow p) s = .next ((s.modPort q fun ps => { ps with window := ⟨stored, size⟩ }).answered p r
          ⟨.ok, [.o8 (portNumber q), .o16 stored, .o16 size]⟩)

/-- Set Port Options: BAD_VALUE without effect for a byte order other than BIG or LITTLE; else the byte order is the
carried one, read by the request's own reply, and the quota the carried one brought into 1..8, with CLAMPED when it
was not there. (R159, R164) -/
def Obligations.PortOptionsAreSet : Prop :=
  ∀ (s : State) (p : Port) (r : Request), AtHead s p .setPortOptions r →
    (1 < u8 r.body 0 → exec (.setPortOptions p) s = .next (s.answered p r (.bare .badValue))) ∧
    ∀ bo, u8 r.body 0 = byteOrderNumber bo →
      let q := max 1 (min 8 (u8 r.body 1))
      exec (.setPortOptions p) s =
        .next ((s.modPort p fun ps => { ps with byteOrder := bo, quota := q }).answered p r
          ⟨if 1 ≤ u8 r.body 1 ∧ u8 r.body 1 ≤ 8 then .ok else .clamped, [.o8 (byteOrderNumber bo), .o8 q]⟩)

/-- Read Flags changes nothing; Clear Flags clears the named flags whatever their enables; Set Flag Enables replaces
the six enables. Each answers the flags as shown: set with the enable on. ATN is low exactly when one is shown. An
event of all ports sets its flag at each and leaves everything else; a change of one port leaves the others. (R165,
R166, R167, R172) -/
def Obligations.FlagRequestsAndAttention : Prop :=
  (∀ (s : State) (p : Port) (f : PortState → PortState),
    s.modPort p f = { s with ports := (s.modPort p f).ports } ∧
    ∀ q, (s.modPort p f).port q = if q = p then f (s.port p) else s.port q) ∧
  (∀ (s : State) (p : Port) (r : Request),
    (AtHead s p .readFlags r →
      exec (.readFlags p) s = .next (s.answered p r
        ⟨.ok, [.o8 (shownFlags (s.port p)).number, .o8 (s.port p).enables.number, .o16 (s.port p).correctedHeaders,
          .o16 (s.port p).drops]⟩)) ∧
    (AtHead s p .clearFlags r → ∃ t : State,
      exec (.clearFlags p) s = .next (t.answered p r ⟨.ok, [.o8 (shownFlags (t.port p)).number]⟩) ∧
      t = s.modPort p (fun ps => { ps with flags := (t.port p).flags }) ∧
      (t.port p).flags.notice = ((s.port p).flags.notice && !bit8 r.body 0 0) ∧
      (t.port p).flags.high = ((s.port p).flags.high && !bit8 r.body 0 1) ∧
      (t.port p).flags.owed = ((s.port p).flags.owed && !bit8 r.body 0 2) ∧
      (t.port p).flags.sweep = ((s.port p).flags.sweep && !bit8 r.body 0 3) ∧
      (t.port p).flags.table = ((s.port p).flags.table && !bit8 r.body 0 4) ∧
      (t.port p).flags.link = ((s.port p).flags.link && !bit8 r.body 0 5)) ∧
    (AtHead s p .setFlagEnables r → ∃ t : State,
      exec (.setFlagEnables p) s = .next (t.answered p r ⟨.ok, [.o8 (shownFlags (t.port p)).number]⟩) ∧
      t = s.modPort p (fun ps => { ps with enables :=
        ⟨bit8 r.body 0 0, bit8 r.body 0 1, bit8 r.body 0 2, bit8 r.body 0 3, bit8 r.body 0 4, bit8 r.body 0 5⟩ }))) ∧
  (∀ (f : Flag) (s : State),
    raiseAll f s = { s with ports := (raiseAll f s).ports } ∧
    ∀ p, (raiseAll f s).port p = { s.port p with flags := ((raiseAll f s).port p).flags } ∧
      ∀ g, ((raiseAll f s).port p).flags.get g = (decide (g = f) || (s.port p).flags.get g)) ∧
  ∀ ps : PortState,
    (∀ f, (shownFlags ps).get f = (ps.flags.get f && ps.enables.get f)) ∧
    (atnLow ps = true ↔ ∃ f, ps.flags.get f = true ∧ ps.enables.get f = true) ∧
    (shownFlags ps).number =
      (if (shownFlags ps).notice then 1 else 0) + (if (shownFlags ps).high then 2 else 0) +
      (if (shownFlags ps).owed then 4 else 0) + (if (shownFlags ps).sweep then 8 else 0) +
      (if (shownFlags ps).table then 16 else 0) + (if (shownFlags ps).link then 32 else 0)

/-! ## Readings -/

/-- The ACCEPT checks in their order, each on readings that pass the ones before: BAD_VALUE for the process, the
window, OFF, SUSPENDED, FUTURE_DAY and TOO_LATE with C and W, STALE_DAY with L and one stale count more, BAD_VALUE for
lot 0. With its lot not active the reading is parked. Else the snapshots are taken and COMPUTE runs on them, the chart
and the store's settings, as DensitiesAndDeviations and ChartArithmetic state it, and nothing else changes. (R65, R66,
R67, R68, R69, R70, R92) -/
def Obligations.PostReadingIsAcceptedInOrder : Prop :=
  ∀ (s : State) (c : Caller), Granted s .postReading c →
    let b := c.request.body
    let store := u16 c.order b 0
    let lot := u16 c.order b 3
    let day := u16 c.order b 5
    let w := (s.port c.port).window
    let cal := s.calendar
    (1 < u8 b 2 → exec .postReading s = .next (finishOperation c (.bare .badValue) s)) ∧
    ∀ pr, u8 b 2 = processNumber pr →
      let ch := s.chart store pr
      (¬ (w.base ≤ store ∧ store < w.base + w.size) →
        exec .postReading s = .next (finishOperation c (.bare .outOfWindow) s)) ∧
      (w.base ≤ store → store < w.base + w.size →
        (ch.state = .off → exec .postReading s = .next (finishOperation c (.bare .notEnrolled) s)) ∧
        (ch.state = .suspended → exec .postReading s = .next (finishOperation c (.bare .suspended) s)) ∧
        (ch.state = .active ∨ ch.state = .overdue →
          (cal.day < day → exec .postReading s =
            .next (finishOperation c ⟨.futureDay, [.o16 cal.day, .o8 cal.lateWindow]⟩ s)) ∧
          (day ≤ cal.day → day + cal.lateWindow < cal.day → exec .postReading s =
            .next (finishOperation c ⟨.tooLate, [.o16 cal.day, .o8 cal.lateWindow]⟩ s)) ∧
          (day ≤ cal.day → cal.day ≤ day + cal.lateWindow →
            (∀ l, ch.lastDay = some l → day < l → exec .postReading s =
              .next (finishOperation c ⟨.staleDay, [.o16 l]⟩ (s.setChart store pr { ch with
                staleCount := if ch.staleCount < 65535 then ch.staleCount + 1 else ch.staleCount }))) ∧
            ((∀ l, ch.lastDay = some l → l ≤ day) →
              (lot = 0 → exec .postReading s = .next (finishOperation c (.bare .badValue) s)) ∧
              (lot ≠ 0 → findLot (s.table pr).lots lot = none → ∃ answer parked,
                (answer, parked) = offerOrOwe
                  ⟨store, pr, .held, .unknownLot, day, .watch, 0, 0, [], none, some lot⟩
                  (s.setChart store pr { ch with parked := some ⟨lot, day, items16 c.order b 7⟩ }) ∧
                exec .postReading s = .next (finishOperation c
                  ⟨.parked, [.o8 (if answer = .refused then 8 else 0), .o16 lot, .o16 answer.noticeId]⟩ parked)) ∧
              (∀ record, lot ≠ 0 → findLot (s.table pr).lots lot = some record → ∃ ev,
                exec .postReading s = .next { s with engine := some (.evaluating c (.computed ev)) } ∧
                ev.reading = ⟨store, pr, lot, day, items16 c.order b 7⟩ ∧ ev.calendarDay = cal.day ∧
                ev.lateWindow = cal.lateWindow ∧ ev.lot = record ∧ ev.profile = (s.table pr).profile ∧
                ev.seeded = ch.seedPending ∧ ev.lotChanged = decide (lot ≠ ch.currentLot) ∧
                ev = compute (s.entry store).instrument ch ev.reading cal.day cal.lateWindow record
                  (s.table pr).profile)))))

/-- The arithmetic of chapter 1 in COMPUTE: each code, held to full scale, converts to the nearest mD; the offset is
added and the sum held to 0..4000, with the mark exactly when a clamp changed the value; plotting values and aims are
built alike; the deviation is their difference held to −2047..2047. (R6, R7, R8, R9, R10, R11, R12) -/
def Obligations.DensitiesAndDeviations : Prop :=
  (∀ (ins : Instrument) (chart : Chart) (rd : Reading) (day window : Nat) (lot : LotRecord) (pf : Profile),
    let ev := compute ins chart rd day window lot pf
    (∀ p ch,
      let full : Nat := (match ins.resolution with | .bits8 => 255 | .bits10 => 1023 | .bits12 => 4095)
      let code := rd.codes.item p ch
      let sum : Int := (((min code full) * 8000 + full) / (2 * full) : Nat) + 2 * ins.offsets.get ch
      (ev.densities.item p ch : Int) = max 0 (min 4000 sum) ∧
      (ev.clampedMask.getLsbD (itemNumber p ch) = true ↔ full < code ∨ sum < 0 ∨ 4000 < sum)) ∧
    (∀ ch,
      ev.measured.pv .base ch = ev.densities.item .dmin ch ∧ ev.measured.pv .speed ch = ev.densities.item .low ch ∧
      ev.measured.pv .contrast ch = (ev.densities.item .high ch : Int) - ev.densities.item .low ch ∧
      ev.measured.pv .top ch = ev.densities.item .dmax ch ∧
      ev.aims.pv .base ch = lot.values.densities.item .dmin ch + lot.values.corrections.pv .base ch ∧
      ev.aims.pv .speed ch = lot.values.densities.item .low ch + lot.values.corrections.pv .speed ch ∧
      ev.aims.pv .contrast ch = (lot.values.densities.item .high ch : Int) - lot.values.densities.item .low ch +
        lot.values.corrections.pv .contrast ch ∧
      ev.aims.pv .top ch = lot.values.densities.item .dmax ch + lot.values.corrections.pv .top ch) ∧
    ∀ g ch, (ev.pvs.pv g ch).deviation = max (-2047) (min 2047 (ev.measured.pv g ch - ev.aims.pv g ch))) ∧
  ∀ (full k : Nat), 0 < full → k ≤ full →
    convertCode full k ≤ 4000 ∧ convertCode full 0 = 0 ∧ convertCode full full = 4000 ∧
    2 * full * convertCode full k ≤ 8000 * k + full ∧ 8000 * k < 2 * full * convertCode full k + full

/-- The chart arithmetic of a charted plotting value, from the kept item and the deviation: limit class, seed or EWMA
step (nearest integer, ties away from zero), drift indicator, run rule, RUN, and the symptom. A held one forms its
deviation alone and keeps its item, but for its run in a lot change. A spread item is PRESENT when two charted
channels of its group lie farther apart than SL. (R71, R72, R73, R74, R75, R76, R77, R78, R79, R80) -/
def Obligations.ChartArithmetic : Prop :=
  (∀ (ins : Instrument) (chart : Chart) (rd : Reading) (day window : Nat) (lot : LotRecord) (pf : Profile) (g : Group),
    let ev := compute ins chart rd day window lot pf
    ev.spread.get g = .present ↔ ∃ x y, (ev.pvs.pv g x).charted = true ∧ (ev.pvs.pv g y).charted = true ∧
      ((pf.values.limits.get g).sl : Int) < (ev.pvs.pv g x).deviation - (ev.pvs.pv g y).deviation) ∧
  ∀ (ins : Instrument) (chart : Chart) (rd : Reading) (day window : Nat) (lot : LotRecord) (pf : Profile)
    (g : Group) (ch : Channel),
    let w := (compute ins chart rd day window lot pf).pvs.pv g ch
    let kept := chart.pvs.pv g ch
    let lim := pf.values.limits.get g
    let dev := w.deviation
    let changed := rd.lot ≠ chart.currentLot
    let charted := pf.values.plotted.get g = true ∧ chart.hold.getLsbD (pvNumber g ch) = false
    (w.charted = true ↔ charted) ∧
    (charted →
      (dev.natAbs ≤ lim.cl → w.limitClass = .within) ∧
      (lim.cl < dev.natAbs → dev.natAbs ≤ lim.al → w.limitClass = .warn (decide (0 < dev))) ∧
      (lim.cl < dev.natAbs → lim.al < dev.natAbs → w.limitClass = .action (decide (0 < dev))) ∧
      (chart.seedPending = true → w.ewma = dev * 16) ∧
      (chart.seedPending = false →
        let step := w.ewma - kept.ewma
        let exact := (dev * 16 - kept.ewma) * pf.values.weight
        2 * |16 * step - exact| ≤ 16 ∧ (2 * |16 * step - exact| = 16 → |exact| < |16 * step|)) ∧
      (w.drift = .pos ↔ (lim.dl : Int) * 16 < w.ewma) ∧ (w.drift = .neg ↔ w.ewma < -((lim.dl : Int) * 16)) ∧
      (dev.natAbs ≤ lim.rb → w.runSign = .zero ∧ w.runCount = 0) ∧
      (lim.rb < dev.natAbs →
        let sign : Sgn := if 0 < dev then .pos else .neg
        w.runSign = sign ∧ (changed ∨ kept.runSign ≠ sign → w.runCount = 1) ∧
        (¬ changed → kept.runSign = sign → w.runCount = min 15 (kept.runCount + 1))) ∧
      (w.run = true ↔ pf.values.runLength ≤ w.runCount) ∧
      (let up := w.limitClass = .warn true ∨ w.limitClass = .action true ∨ w.drift = .pos ∨
          (w.run = true ∧ w.runSign = .pos)
        let down := w.limitClass = .warn false ∨ w.limitClass = .action false ∨ w.drift = .neg ∨
          (w.run = true ∧ w.runSign = .neg)
        (w.symptom = .up ↔ up ∧ ¬ down) ∧ (w.symptom = .down ↔ ¬ up ∧ down) ∧ (w.symptom = .mixed ↔ up ∧ down) ∧
          (w.symptom = .none ↔ ¬ up ∧ ¬ down))) ∧
    (¬ charted → w.symptom = .none ∧ w.drift = .zero ∧ w.run = false ∧ w.ewma = kept.ewma ∧
      (changed → w.runSign = .zero ∧ w.runCount = 0) ∧
      (¬ changed → w.runSign = kept.runSign ∧ w.runCount = kept.runCount))

/-- CLASSIFY, on the Pattern Table as it then stands and the chart's latched match set: raw matches, final results by
persistence mode, the winner of highest severity and then lowest number, and the four fallback conditions in order.
Nothing but the evaluation in flight changes. (R100, R101, R102, R103, R105, R106, R107, R108, R109) -/
def Obligations.ClassifyPicksTheWinner : Prop :=
  ∀ (s : State) (c : Caller) (ev : Evaluation), s.engine = some (.evaluating c (.computed ev)) →
    let latched := (s.chart ev.reading.store ev.reading.process).latched
    let item := fun g ch => ev.pvs.pv g ch
    ∃ res : Result,
      exec .classify s = .next { s with engine := some (.evaluating c (.classified ev res)) } ∧
      (∀ i : Fin 16, res.rawMatch.getLsbD i = true ↔ s.patterns[i].enabled = true ∧
        (∀ g ch, s.patterns[i].care.getLsbD (pvNumber g ch) = true →
          match s.patterns[i].expectPv.pv g ch with
          | .none => (item g ch).symptom = .none
          | .up => (item g ch).symptom = .up
          | .down => (item g ch).symptom = .down
          | .any => (item g ch).symptom ≠ .none) ∧
        ∀ g, s.patterns[i].care.getLsbD (12 + g.number) = true → s.patterns[i].expectSpread.get g = ev.spread.get g) ∧
      ∃ final : Fin 16 → Bool,
        (∀ i : Fin 16, final i = true ↔ s.patterns[i].enabled = true ∧
          match s.patterns[i].mode with
          | .plain => res.rawMatch.getLsbD i = true
          | .confirmed => res.rawMatch.getLsbD i = true ∧ latched.getLsbD i = true
          | .onset => res.rawMatch.getLsbD i = true ∧ latched.getLsbD i = false
          | .cleared => latched.getLsbD i = true ∧ res.rawMatch.getLsbD i = false) ∧
        (∀ i : Fin 16, final i = true →
          (∀ j : Fin 16, final j = true →
            severityNumber s.patterns[j].severity < severityNumber s.patterns[i].severity ∨
            (severityNumber s.patterns[j].severity = severityNumber s.patterns[i].severity ∧ i ≤ j)) →
          (∀ j : Fin 16, res.matched.getLsbD j = final j) ∧ res.code = s.patterns[i].code ∧
          res.severity = s.patterns[i].severity ∧
          res.deviations = ((allPvs.filter fun x => s.patterns[i].care.getLsbD (pvNumber x.1 x.2)).map
            fun x => (pvNumber x.1 x.2, (item x.1 x.2).deviation))) ∧
        ((∀ i, final i = false) → res.matched = 0 ∧
          ∃ pick : Group → Channel → Prop, ∃ _ : ∀ g ch, Decidable (pick g ch),
            res.deviations = ((allPvs.filter fun x => decide (pick x.1 x.2)).map
              fun x => (pvNumber x.1 x.2, (item x.1 x.2).deviation)) ∧
            let action := fun g ch => (item g ch).charted = true ∧
              ((item g ch).limitClass = .action true ∨ (item g ch).limitClass = .action false)
            let drift := fun g ch => (item g ch).charted = true ∧ (item g ch).drift ≠ .zero
            let run := fun g ch => (item g ch).charted = true ∧ (item g ch).run = true
            let inSpread := fun g ch => (item g ch).charted = true ∧ ev.spread.get g = .present
            ((∃ g ch, action g ch) ∧ res.code = 60 ∧ res.severity = .adjust ∧ pick = action) ∨
            ((¬ ∃ g ch, action g ch) ∧ (∃ g ch, drift g ch) ∧ res.code = 61 ∧ res.severity = .watch ∧ pick = drift) ∨
            ((¬ ∃ g ch, action g ch) ∧ (¬ ∃ g ch, drift g ch) ∧ (∃ g ch, run g ch) ∧ res.code = 62 ∧
              res.severity = .watch ∧ pick = run) ∨
            ((¬ ∃ g ch, action g ch) ∧ (¬ ∃ g ch, drift g ch) ∧ (¬ ∃ g ch, run g ch) ∧
              (∃ g, ev.spread.get g = .present) ∧ res.code = 63 ∧ res.severity = .watch ∧ pick = inSpread) ∨
            ((¬ ∃ g ch, action g ch) ∧ (¬ ∃ g ch, drift g ch) ∧ (¬ ∃ g ch, run g ch) ∧
              (∀ g, ev.spread.get g = .absent) ∧ res.code = 0 ∧ res.severity = .info ∧ pick = fun _ _ => False))

/-- The commit of a reading whose lot is active: the store counts of a lot change in the same step as the question,
the chart record written item by item, RESUMED of an OVERDUE chart and then DRIFT of a code that is not 0 offered each
on the state the one before has left, and the reply field by field: its notice id is the CONDITION offer's or 0, and
OWED says that an offer was refused. Part by part, the first part writes the chart and leaves the offers due, or the
end when there is none; each further part makes one offer, and between two of them requests of the ports may be taken
(R114; the places of these points are DEDUCED, notes/assumptions/4.md). (R19, R79, R83, R85, R86, R87, R88, R89, R90,
R91, R174) -/
def Obligations.CommitWritesTheChart : Prop :=
  let reply := fun (ev : Evaluation) (res : Result) (id : Nat) (owed : Bool) =>
    (⟨.ok,
      [Field.o8 ((if ev.lotChanged then 1 else 0) +
          (match ev.lot.values.lastUsable with | some d => if d < ev.reading.day then 2 else 0 | none => 0) +
          (if ev.seeded then 4 else 0) + (if owed then 8 else 0)),
        Field.o16 ev.clampedMask.toNat] ++
      (([.base, .speed, .contrast, .top] : List Group).flatMap fun g =>
        ([.r, .g, .b] : List Channel).map fun x => Field.o16s (ev.pvs.pv g x).deviation) ++
      (([.base, .speed, .contrast, .top] : List Group).flatMap fun g =>
        ([.r, .g, .b] : List Channel).map fun x => Field.o8 (symptomNumber (ev.pvs.pv g x).symptom)) ++
      (([.base, .speed, .contrast, .top] : List Group).map fun g => Field.o8 (spreadNumber (ev.spread.get g))) ++
      [Field.o8 res.code, Field.o8 (severityNumber res.severity), Field.o16 res.matched.toNat, Field.o16 id]⟩ : Reply)
  let left := fun (ev : Evaluation) (res : Result) (offers : List Offer) (id : Nat) (owed : Bool) =>
    (match offers with
      | [] => .ending (reply ev res id owed)
      | o :: rest => .offering ev res (o :: rest) id owed : EvalStage)
  let idOf := fun a : OfferAnswer => match a with | .merged n => n | .inserted n => n | .refused => 0
  (∀ (s : State) (c : Caller) (ev : Evaluation) (res : Result),
    let rd := ev.reading
    let ch := s.chart rd.store rd.process
    let here := s.engine = some (.evaluating c (.classified ev res))
    lotActive s rd.process rd.lot = true →
    ∃ (moved : State) (ch' : Chart) (id : Nat) (owed : Bool) (done : State),
      (rd.lot = ch.currentLot → moved = s) ∧
      (rd.lot ≠ ch.currentLot → moved = s.setTable rd.process { s.table rd.process with
        lots := (s.table rd.process).lots.map fun l => { l with storeCount :=
          if l.number = rd.lot then l.storeCount + 1
          else if ch.currentLot ≠ 0 ∧ l.number = ch.currentLot then l.storeCount - 1 else l.storeCount } }) ∧
      ch' = { ch with
        state := ch'.state, seedPending := false, currentLot := rd.lot, lotRevision := ev.lot.revision
        lastDay := ch'.lastDay, missed := min ch.missed (ev.calendarDay - 1 - rd.day), pvs := ch'.pvs
        latched := res.rawMatch
        lastResult := some ⟨rd.day, res.code, res.severity, res.matched, res.deviations⟩
        parked := ch'.parked
        evaluatedCount := if ch.evaluatedCount < 65535 then ch.evaluatedCount + 1 else ch.evaluatedCount
        expiredCount := ch'.expiredCount } ∧
      (ch.state = .overdue → ch'.state = .active) ∧ (ch.state ≠ .overdue → ch'.state = ch.state) ∧
      ch'.lastDay = some (match ch.lastDay with | none => rd.day | some l => max l rd.day) ∧
      (∀ g x, ((ev.pvs.pv g x).charted = true → ch'.pvs.pv g x = ⟨some (ev.pvs.pv g x).deviation,
          (ev.pvs.pv g x).ewma, (ev.pvs.pv g x).runSign, (ev.pvs.pv g x).runCount⟩) ∧
        ((ev.pvs.pv g x).charted = false → ch'.pvs.pv g x = { ch.pvs.pv g x with
          runSign := (ev.pvs.pv g x).runSign, runCount := (ev.pvs.pv g x).runCount })) ∧
      ch'.parked = ch.parked.bind (fun pk => if pk.day ≤ rd.day then none else some pk) ∧
      ((∃ d, ev.lot.values.lastUsable = some d ∧ d < rd.day) →
        ch'.expiredCount = if ch.expiredCount < 65535 then ch.expiredCount + 1 else ch.expiredCount) ∧
      ((∀ d, ev.lot.values.lastUsable = some d → rd.day ≤ d) → ch'.expiredCount = ch.expiredCount) ∧
      (let resumed : Offer :=
          ⟨rd.store, rd.process, .attendance, .resumed, rd.day, .info, 0, 0, [], some ch'.missed, none⟩
        let drift : Offer :=
          ⟨rd.store, rd.process, .condition, .drift, rd.day, res.severity, res.code, res.matched, res.deviations, none,
            none⟩
        let start := moved.setChart rd.store rd.process ch'
        let first := offerOrOwe resumed start
        let only := offerOrOwe drift start
        let second := offerOrOwe drift first.2
        let due := left ev res
          ((if ch.state = .overdue then [resumed] else []) ++ (if res.code = 0 then [] else [drift])) 0 false
        (ch.state ≠ .overdue → res.code = 0 → done = start ∧ id = 0 ∧ owed = false) ∧
        (ch.state ≠ .overdue → res.code ≠ 0 →
          done = only.2 ∧ id = idOf only.1 ∧ owed = decide (only.1 = .refused)) ∧
        (ch.state = .overdue → res.code = 0 → done = first.2 ∧ id = 0 ∧ owed = decide (first.1 = .refused)) ∧
        (ch.state = .overdue → res.code ≠ 0 →
          done = second.2 ∧ id = idOf second.1 ∧ owed = decide (first.1 = .refused ∨ second.1 = .refused)) ∧
        evalPart (.classified ev res) s = (due, start) ∧
        (here → exec (.evaluationCommit .part) s = .next { start with engine := some (.evaluating c due) })) ∧
      runCommit ev res s = (reply ev res id owed, done) ∧
      (here → exec (.evaluationCommit .whole) s = .next (finishOperation c (reply ev res id owed) done))) ∧
  ∀ (s : State) (c : Caller) (ev : Evaluation) (res : Result) (o : Offer) (rest : List Offer) (id : Nat)
    (owed : Bool),
    let answer := (offerOrOwe o s).1
    let after := (offerOrOwe o s).2
    let due := left ev res rest (if o.cls = .condition then idOf answer else id) (owed || decide (answer = .refused))
    evalPart (.offering ev res (o :: rest) id owed) s = (due, after) ∧
    (s.engine = some (.evaluating c (.offering ev res (o :: rest) id owed)) →
      exec (.evaluationCommit .part) s = .next { after with engine := some (.evaluating c due) })

/-- The commit of a reading whose lot has been retired in flight: the reading fills the parked slot, HELD is offered,
the reply is PARKED; nothing else of the chart changes but an owed mark. Part by part, other blocks' steps may fall
between the filling, the offer and the end (DEDUCED, notes/assumptions/4.md). (R84, R92, R50) -/
def Obligations.CommitParksTheReading : Prop :=
  let held := fun rd : Reading =>
    (⟨rd.store, rd.process, .held, .unknownLot, rd.day, .watch, 0, 0, [], none, some rd.lot⟩ : Offer)
  let filled := fun (rd : Reading) (s : State) => s.setChart rd.store rd.process
    { s.chart rd.store rd.process with parked := some ⟨rd.lot, rd.day, rd.codes⟩ }
  let reply := fun (rd : Reading) (answer : OfferAnswer) =>
    (⟨.parked, [Field.o8 (if answer = .refused then 8 else 0), Field.o16 rd.lot, Field.o16 answer.noticeId]⟩ : Reply)
  (∀ (s : State) (c : Caller) (ev : Evaluation) (res : Result),
    let rd := ev.reading
    let here := s.engine = some (.evaluating c (.classified ev res))
    lotActive s rd.process rd.lot = false →
    (∃ answer parked,
      (answer, parked) = offerOrOwe (held rd) (filled rd s) ∧
      runCommit ev res s = (reply rd answer, parked) ∧
      (here → exec (.evaluationCommit .whole) s = .next (finishOperation c (reply rd answer) parked))) ∧
    evalPart (.classified ev res) s = (.parking rd, filled rd s) ∧
    (here → exec (.evaluationCommit .part) s =
      .next { filled rd s with engine := some (.evaluating c (.parking rd)) })) ∧
  ∀ (s : State) (c : Caller) (rd : Reading),
    let answer := (offerOrOwe (held rd) s).1
    let after := (offerOrOwe (held rd) s).2
    evalPart (.parking rd) s = (.ending (reply rd answer), after) ∧
    (s.engine = some (.evaluating c (.parking rd)) → exec (.evaluationCommit .part) s =
      .next { after with engine := some (.evaluating c (.ending (reply rd answer))) }) ∧
    ∀ rep, s.engine = some (.evaluating c (.ending rep)) →
      exec (.evaluationCommit .part) s = .next (finishOperation c rep s)

/-! ## Chart edits -/

/-- Enrol Chart. At the grant: BAD_VALUE for the store or process, EXISTS for a chart that is not OFF, nothing
changed; else +1 to the enrolment count, and the commit is to come. At the commit: with lot 0 or an active lot, whose
count rises in the same step, the chart becomes ACTIVE with seed pending, enrolled on C; else NOT_FOUND and −1. (R19,
R52, R53, R54) -/
def Obligations.EnrolChartInTwoSteps : Prop :=
  ∀ (s : State) (c : Caller),
    (Granted s .enrolChart c →
      let store := u16 c.order c.request.body 0
      ((1023 < store ∨ 1 < u8 c.request.body 2) →
        exec .enrolChart s = .next (finishOperation c (.bare .badValue) s)) ∧
      ∀ pr, store ≤ 1023 → u8 c.request.body 2 = processNumber pr →
        ((s.chart store pr).state ≠ .off → exec .enrolChart s = .next (finishOperation c (.bare .exists_) s)) ∧
        ((s.chart store pr).state = .off → exec .enrolChart s = .next { s with
          calendar := { s.calendar with enrolment := s.calendar.enrolment + 1 }
          engine := some (.enrolling c store pr (u16 c.order c.request.body 3)) })) ∧
    ∀ store pr lot, s.engine = some (.enrolling c store pr lot) →
      let enrolled := { s.chart store pr with
        state := .active, seedPending := true, currentLot := lot, enrolDay := s.calendar.day, lastDay := none
        missed := 0 }
      (lot = 0 → exec .enrolChartCommit s =
        .next (finishOperation c ⟨.ok, [.o16 s.calendar.day]⟩ (s.setChart store pr enrolled))) ∧
      (lot ≠ 0 → lotActive s pr lot = true → exec .enrolChartCommit s =
        .next (finishOperation c ⟨.ok, [.o16 s.calendar.day]⟩
          ((s.setTable pr { s.table pr with lots := (s.table pr).lots.map fun l =>
            if l.number = lot then { l with storeCount := l.storeCount + 1 } else l }).setChart store pr enrolled))) ∧
      (lot ≠ 0 → lotActive s pr lot = false → exec .enrolChartCommit s =
        .next (finishOperation c (.bare .notFound)
          { s with calendar := { s.calendar with enrolment := s.calendar.enrolment - 1 } }))

/-- Withdraw Chart. At the grant: BAD_VALUE, or NOT_ENROLLED for an OFF chart, nothing changed. At the commit: −1 to
its lot's count, its notices of any class removed and counted in the reply, −1 to the enrolment count, every field at
its OFF value; the store's settings and its other chart are kept. (R19, R39, R52, R53, R55, R126) -/
def Obligations.WithdrawChartInTwoSteps : Prop :=
  ∀ (s : State) (c : Caller),
    (Granted s .withdrawChart c →
      let store := u16 c.order c.request.body 0
      ((1023 < store ∨ 1 < u8 c.request.body 2) →
        exec .withdrawChart s = .next (finishOperation c (.bare .badValue) s)) ∧
      ∀ pr, store ≤ 1023 → u8 c.request.body 2 = processNumber pr →
        ((s.chart store pr).state = .off →
          exec .withdrawChart s = .next (finishOperation c (.bare .notEnrolled) s)) ∧
        ((s.chart store pr).state ≠ .off →
          exec .withdrawChart s = .next { s with engine := some (.withdrawing c store pr) })) ∧
    ∀ store pr, s.engine = some (.withdrawing c store pr) → StoresOk s → store < 1024 →
      ∃ t, exec .withdrawChartCommit s = .next (finishOperation c
          ⟨.ok, [.o8 (s.notices.entries.filter fun e => e.store = store ∧ e.process = pr).length]⟩ t) ∧
        t = { s with refs := t.refs, notices := t.notices, calendar := t.calendar, stores := t.stores } ∧
        t.notices = { s.notices with
          entries := s.notices.entries.filter fun e => ¬ (e.store = store ∧ e.process = pr) } ∧
        t.calendar = { s.calendar with enrolment := s.calendar.enrolment - 1 } ∧
        (∀ qr, t.table qr = { s.table qr with lots := (s.table qr).lots.map fun l =>
          if qr = pr ∧ (s.chart store pr).currentLot ≠ 0 ∧ l.number = (s.chart store pr).currentLot then
            { l with storeCount := l.storeCount - 1 } else l }) ∧
        (let x := t.chart store pr;
          x.state = .off ∧ x.seedPending = false ∧ x.currentLot = 0 ∧ x.lotRevision = 0 ∧ x.enrolDay = 0 ∧
          x.lastDay = none ∧ x.missed = 0 ∧ (∀ g ch, x.pvs.pv g ch = ⟨none, 0, .zero, 0⟩) ∧ x.hold = 0 ∧
          x.latched = 0 ∧ x.lastResult = none ∧ x.owed = ⟨false, false, false⟩ ∧ x.parked = none ∧
          x.evaluatedCount = 0 ∧ x.staleCount = 0 ∧ x.expiredCount = 0) ∧
        (∀ n, (t.entry n).instrument = (s.entry n).instrument) ∧
        ∀ n qr, ¬ (n = store ∧ qr = pr) → t.chart n qr = s.chart n qr

/-- Suspend, Resume, Restart and Set Hold on a chart that is OFF: NOT_ENROLLED; with a wrong store or process:
BAD_VALUE; nothing changed. On a chart that is not OFF: the state table of Suspend and Resume, the cleared and set
fields of Restart, and the carried mask of Set Hold; every other field of the part is kept. (R52, R56, R57, R58, R59)
-/
def Obligations.ChartStateEdits : Prop :=
  (∀ (s : State) (c : Caller), (1023 < u16 c.order c.request.body 0 ∨ 1 < u8 c.request.body 2) →
    let refused := finishOperation c (.bare .badValue) s
    (Granted s .suspendChart c → exec .suspendChart s = .next refused) ∧
    (Granted s .resumeChart c → exec .resumeChart s = .next refused) ∧
    (Granted s .restartChart c → exec .restartChart s = .next refused) ∧
    (Granted s .setHold c → exec .setHold s = .next refused)) ∧
  ∀ (s : State) (c : Caller) (pr : Process), let store := u16 c.order c.request.body 0
    store ≤ 1023 → u8 c.request.body 2 = processNumber pr →
    let ch := s.chart store pr
    let done := fun (rep : Reply) (x : Chart) =>
      (Host.Outcome.next (finishOperation c rep (s.setChart store pr x)) : Host.Outcome State Fault Refusal)
    let notEnrolled := (Host.Outcome.next (finishOperation c (.bare .notEnrolled) s) :
      Host.Outcome State Fault Refusal)
    let restarted := fun x : Chart => { x with
      seedPending := true, latched := 0, pvs := PerPv.tab fun _ _ => ⟨none, 0, .zero, 0⟩ }
    let resumed := { ch with state := .active, missed := 0 }
    let option := u8 c.request.body 3
    (Granted s .suspendChart c →
      (ch.state = .off → exec .suspendChart s = notEnrolled) ∧
      (ch.state = .active ∨ ch.state = .overdue → exec .suspendChart s =
        done ⟨.ok, [.o8 3]⟩ { ch with state := .suspended, parked := none }) ∧
      (ch.state = .suspended → exec .suspendChart s = .next (finishOperation c ⟨.ok, [.o8 3]⟩ s))) ∧
    (Granted s .resumeChart c →
      (1 < option → exec .resumeChart s = .next (finishOperation c (.bare .badValue) s)) ∧
      (option ≤ 1 →
        (ch.state = .off → exec .resumeChart s = notEnrolled) ∧
        (ch.state = .suspended → option = 0 → exec .resumeChart s = done ⟨.ok, [.o8 1]⟩ resumed) ∧
        (ch.state = .suspended → option = 1 → exec .resumeChart s = done ⟨.ok, [.o8 1]⟩ (restarted resumed)) ∧
        (ch.state = .active → exec .resumeChart s = .next (finishOperation c ⟨.ok, [.o8 1]⟩ s)) ∧
        (ch.state = .overdue → exec .resumeChart s = .next (finishOperation c ⟨.ok, [.o8 2]⟩ s)))) ∧
    (Granted s .restartChart c →
      (ch.state = .off → exec .restartChart s = notEnrolled) ∧
      (ch.state ≠ .off → exec .restartChart s = done (.bare .ok) (restarted ch))) ∧
    (Granted s .setHold c →
      (ch.state = .off → exec .setHold s = notEnrolled) ∧
      (ch.state ≠ .off → exec .setHold s =
        done (.bare .ok) { ch with hold := BitVec.ofNat 12 (u16 c.order c.request.body 3) }))

/-- Set Instrument: BAD_VALUE without effect for a store above 1023, a resolution other than 8, 10 and 12 or a sign
other than plus and minus; else all four settings are replaced, a magnitude held to 31 and named in the reply, minus 0
as +0; both charts of the store are kept. Read Chart answers the settings and the chart record and changes nothing.
The two layouts, field by field. A write of one store's entry or chart leaves every other. (R4, R49, R52, R60, R172,
R176) -/
def Obligations.InstrumentSetAndChartRead : Prop :=
  (∀ (s : State) (n : Nat) (e : StoreEntry) (pr : Process) (ch : Chart) (f : Chart → Chart),
    s.setEntry n e = { s with stores := (s.setEntry n e).stores } ∧
    s.setChart n pr ch = { s with stores := (s.setChart n pr ch).stores } ∧
    s.modChart n pr f = s.setChart n pr (f (s.chart n pr)) ∧
    (StoresOk s → ∀ m,
      (s.setEntry n e).entry m = (if m = n ∧ n < 1024 then e else s.entry m) ∧
      ((s.setChart n pr ch).entry m).instrument = (s.entry m).instrument ∧
      ∀ qr, (s.setChart n pr ch).chart m qr = if m = n ∧ n < 1024 ∧ qr = pr then ch else s.chart m qr)) ∧
  (∀ ins : Instrument, instrumentFields ins =
    Field.o8 (match ins.resolution with | .bits8 => 8 | .bits10 => 10 | .bits12 => 12) ::
      ([.r, .g, .b] : List Channel).flatMap fun ch =>
        [Field.o8 (if ins.offsets.get ch < 0 then 1 else 0), Field.o8 (ins.offsets.get ch).natAbs]) ∧
  (∀ ch : Chart, ∃ presence : BitVec 12,
    (∀ g x, presence.getLsbD (pvNumber g x) = (ch.pvs.pv g x).lastDeviation.isSome) ∧
    chartFields ch =
      [Field.o8 (match ch.state with | .off => 0 | .active => 1 | .overdue => 2 | .suspended => 3),
        Field.o8 ((if ch.seedPending then 1 else 0) + (if ch.lastDay.isSome then 2 else 0) +
          (if ch.lastResult.isSome then 4 else 0) + (if ch.parked.isSome then 8 else 0) +
          (if ch.owed.condition then 16 else 0) + (if ch.owed.attendance then 32 else 0) +
          (if ch.owed.held then 64 else 0)),
        Field.o16 ch.currentLot, Field.o8 ch.lotRevision, Field.o16 ch.enrolDay, Field.o16 (ch.lastDay.getD 0),
        Field.o8 ch.missed, Field.o16 presence.toNat] ++
      (([.base, .speed, .contrast, .top] : List Group).flatMap fun g => ([.r, .g, .b] : List Channel).flatMap fun x =>
        let i := ch.pvs.pv g x
        [Field.o16s (i.lastDeviation.getD 0), Field.o16s i.ewma,
          Field.o8 (match i.runSign with | .zero => 0x00 | .pos => 0x01 | .neg => 0xFF), Field.o8 i.runCount]) ++
      [Field.o16 ch.hold.toNat, Field.o16 ch.latched.toNat, Field.o16 ch.evaluatedCount, Field.o16 ch.staleCount,
        Field.o16 ch.expiredCount] ++
      (match ch.parked with
        | some pk => Field.o16 pk.lot :: Field.o16 pk.day ::
          ([.dmin, .low, .high, .dmax] : List Patch).flatMap fun pa =>
            ([.r, .g, .b] : List Channel).map fun x => Field.o16 (pk.codes.item pa x)
        | none => List.replicate 14 (Field.o16 0)) ++
      (match ch.lastResult with
        | some r =>
          [Field.o16 r.day, Field.o8 r.code, Field.o8 (severityNumber r.severity), Field.o16 r.matched.toNat,
            Field.o8 r.deviations.length] ++
          r.deviations.flatMap fun x => [Field.o8 x.1, Field.o16s x.2]
        | none => [Field.o16 0, Field.o8 0, Field.o8 0, Field.o16 0, Field.o8 0])) ∧
  ∀ (s : State) (c : Caller),
    let b := c.request.body
    let store := u16 c.order b 0
    (Granted s .setInstrument c →
      let signs := ∀ i, i < 3 → u8 b (3 + 2 * i) ≤ 1
      let resolution := u8 b 2 = 8 ∨ u8 b 2 = 10 ∨ u8 b 2 = 12
      ((1023 < store ∨ ¬ resolution ∨ ¬ signs) →
        exec .setInstrument s = .next (finishOperation c (.bare .badValue) s)) ∧
      (store ≤ 1023 → resolution → signs → ∃ (ins : Instrument) (clamped : List Nat),
        exec .setInstrument s = .next (finishOperation c
          ⟨if clamped = [] then .ok else .clamped, .o8 clamped.length :: clamped.map Field.o8⟩
          (s.setEntry store { s.entry store with instrument := ins })) ∧
        resolutionNumber ins.resolution = u8 b 2 ∧
        (∀ ch, ins.offsets.get ch =
          (if u8 b (3 + 2 * ch.number) = 1 then -1 else 1) * (min 31 (u8 b (4 + 2 * ch.number)) : Nat)) ∧
        clamped.Pairwise (· < ·) ∧ ∀ i, i ∈ clamped ↔ i < 3 ∧ 31 < u8 b (4 + 2 * i))) ∧
    (Granted s .readChart c →
      ((1023 < store ∨ 1 < u8 b 2) → exec .readChart s = .next (finishOperation c (.bare .badValue) s)) ∧
      ∀ pr, store ≤ 1023 → u8 b 2 = processNumber pr →
        exec .readChart s = .next (finishOperation c ⟨.ok, [.o16 store, .o8 (processNumber pr)] ++
          instrumentFields (s.entry store).instrument ++ chartFields (s.chart store pr)⟩ s))

/-- Restore Chart. At the grant, in order: BAD_VALUE for the store or process, or for a carried record out of range;
EXISTS for a chart that is not OFF; BAD_VALUE for an enrol day, L or parked day after C; nothing changed; else +1 to
the enrolment count. At the commit, with lot 0 or an active lot, whose count rises in the same step, the record is
written as carried; else NOT_FOUND and −1. No notice is offered and no flag set. The checks of a carried record, octet
by octet, and the record that is carried; that they hold its deviation list to the range of deviations is DEDUCED
(notes/assumptions/12.md). (R19, R39, R46, R52, R53, R61, R62, R176) -/
def Obligations.RestoreChartInTwoSteps : Prop :=
  (∀ (o : ByteOrder) (b : List Octet),
    let n := (b.length - 132) / 3
    recordValid o b = true ↔
      (1 ≤ u8 b 3 ∧ u8 b 3 ≤ 3) ∧
      (∀ i, i < 12 →
        ((u8 b (19 + 6 * i) = 0x00 ∧ u8 b (20 + 6 * i) = 0) ∨
          ((u8 b (19 + 6 * i) = 0x01 ∨ u8 b (19 + 6 * i) = 0xFF) ∧ 1 ≤ u8 b (20 + 6 * i) ∧ u8 b (20 + 6 * i) ≤ 15)) ∧
        (-32752 ≤ s16 o b (17 + 6 * i) ∧ s16 o b (17 + 6 * i) ≤ 32752) ∧
        ((u16 o b 13).testBit i = true → -2047 ≤ s16 o b (15 + 6 * i) ∧ s16 o b (15 + 6 * i) ≤ 2047)) ∧
      u8 b 131 = n ∧
      (bit8 b 4 2 = false → n = 0) ∧
      (bit8 b 4 2 = true →
        u8 b 127 ≤ 63 ∧ u8 b 128 ≤ 3 ∧
        (∀ i j, i < j → j < n → u8 b (132 + 3 * i) < u8 b (132 + 3 * j)) ∧
        ∀ i, i < n → u8 b (132 + 3 * i) ≤ 11 ∧ -2047 ≤ s16 o b (133 + 3 * i) ∧ s16 o b (133 + 3 * i) ≤ 2047) ∧
      (bit8 b 4 3 = true → u16 o b 97 ≠ 0 ∧ (bit8 b 4 1 = true → u16 o b 10 ≤ u16 o b 99))) ∧
  (∀ (o : ByteOrder) (b : List Octet),
    let x := carriedChart o b
    ((u8 b 3 = 1 → x.state = .active) ∧ (u8 b 3 = 2 → x.state = .overdue) ∧ (u8 b 3 = 3 → x.state = .suspended)) ∧
    x.seedPending = bit8 b 4 0 ∧ x.currentLot = u16 o b 5 ∧ x.lotRevision = u8 b 7 ∧ x.enrolDay = u16 o b 8 ∧
    x.lastDay = (if bit8 b 4 1 then some (u16 o b 10) else none) ∧ x.missed = u8 b 12 ∧
    (∀ g ch,
      let i := pvNumber g ch
      (x.pvs.pv g ch).lastDeviation = (if (u16 o b 13).testBit i then some (s16 o b (15 + 6 * i)) else none) ∧
      (x.pvs.pv g ch).ewma = s16 o b (17 + 6 * i) ∧
      (u8 b (19 + 6 * i) = 0x00 → (x.pvs.pv g ch).runSign = .zero) ∧
      (u8 b (19 + 6 * i) = 0x01 → (x.pvs.pv g ch).runSign = .pos) ∧
      (u8 b (19 + 6 * i) = 0xFF → (x.pvs.pv g ch).runSign = .neg) ∧
      (x.pvs.pv g ch).runCount = u8 b (20 + 6 * i)) ∧
    x.hold = BitVec.ofNat 12 (u16 o b 87) ∧ x.latched = BitVec.ofNat 16 (u16 o b 89) ∧
    x.evaluatedCount = u16 o b 91 ∧ x.staleCount = u16 o b 93 ∧ x.expiredCount = u16 o b 95 ∧
    x.owed = ⟨bit8 b 4 4, bit8 b 4 5, bit8 b 4 6⟩ ∧
    x.parked = (if bit8 b 4 3 then some ⟨u16 o b 97, u16 o b 99, items16 o b 101⟩ else none) ∧
    (bit8 b 4 2 = false → x.lastResult = none) ∧
    (bit8 b 4 2 = true → ∀ sv, severityNumber sv = u8 b 128 →
      x.lastResult = some ⟨u16 o b 125, u8 b 127, sv, BitVec.ofNat 16 (u16 o b 129),
        (List.range ((b.length - 132) / 3)).map fun i => (u8 b (132 + 3 * i), s16 o b (133 + 3 * i))⟩)) ∧
  ∀ (s : State) (c : Caller),
    (Granted s .restoreChart c →
      let b := c.request.body
      let store := u16 c.order b 0
      let carried := carriedChart c.order b
      let refused := (Host.Outcome.next (finishOperation c (.bare .badValue) s) : Host.Outcome State Fault Refusal)
      let late := s.calendar.day < carried.enrolDay ∨ (∃ l, carried.lastDay = some l ∧ s.calendar.day < l) ∨
        ∃ pk, carried.parked = some pk ∧ s.calendar.day < pk.day
      ((1023 < store ∨ 1 < u8 b 2) → exec .restoreChart s = refused) ∧
      ∀ pr, store ≤ 1023 → u8 b 2 = processNumber pr →
        (recordValid c.order b = false → exec .restoreChart s = refused) ∧
        (recordValid c.order b = true →
          ((s.chart store pr).state ≠ .off →
            exec .restoreChart s = .next (finishOperation c (.bare .exists_) s)) ∧
          ((s.chart store pr).state = .off → late → exec .restoreChart s = refused) ∧
          ((s.chart store pr).state = .off → ¬ late → exec .restoreChart s = .next { s with
            calendar := { s.calendar with enrolment := s.calendar.enrolment + 1 }
            engine := some (.restoring c store pr carried) }))) ∧
    ∀ store pr carried, s.engine = some (.restoring c store pr carried) →
      (carried.currentLot = 0 → exec .restoreChartCommit s =
        .next (finishOperation c (.bare .ok) (s.setChart store pr carried))) ∧
      (carried.currentLot ≠ 0 → lotActive s pr carried.currentLot = true → exec .restoreChartCommit s =
        .next (finishOperation c (.bare .ok)
          ((s.setTable pr { s.table pr with lots := (s.table pr).lots.map fun l =>
            if l.number = carried.currentLot then { l with storeCount := l.storeCount + 1 } else l }).setChart
              store pr carried))) ∧
      (carried.currentLot ≠ 0 → lotActive s pr carried.currentLot = false → exec .restoreChartCommit s =
        .next (finishOperation c (.bare .notFound)
          { s with calendar := { s.calendar with enrolment := s.calendar.enrolment - 1 } }))

/-- A record that Read Chart has returned is given back by Restore Chart as it was, whatever the byte order: for every
chart record in range that is not OFF (R39, R61), the octets it is laid out in have a length that Restore Chart
admits, pass the value checks, and are carried back to the same chart. (R39, R60, R61, R62, R171, R176) -/
def Obligations.ReadRecordIsRestored : Prop :=
  ∀ (order : ByteOrder) (ch : Chart) (front : List Octet), front.length = 3 →
    ChartOk 65535 ch → ch.state ≠ .off →
    let body := front ++ (chartFields ch).flatMap (Field.octets order)
    body.length = 132 + 3 * (match ch.lastResult with | some r => r.deviations.length | none => 0) ∧
    admitsLength .restoreChart body.length = true ∧
    recordValid order body = true ∧ carriedChart order body = ch

/-! ## The sweep -/

/-- A slice takes eight stores upward from the next store, film before paper, passes over OFF and SUSPENDED charts and
visits the others, in the order retry, miss and overdue, owed. Its end passes the grant on to A, and advances the next
store by eight, or ends the sweep with SWEEP at all ports; then the arbiter decides. (R132, R139, R148) -/
def Obligations.SliceVisitsEightStores : Prop :=
  ∀ s : State, s.engine = some (.slice 0 .arrive) →
    ∃ t : State,
      t = (List.range 8).foldl (fun u i =>
        visitChart (s.calendar.nextStore + i) .p (visitChart (s.calendar.nextStore + i) .f u)) s ∧
      exec (.sweepSlice .whole) s = .next (arbitrate
        (if s.calendar.nextStore + 8 < 1024 then
          { t with
            engine := none, arbiter := ⟨.port .a, none, 0⟩
            calendar := { s.calendar with nextStore := s.calendar.nextStore + 8 } }
        else raiseAll .sweep
          { t with
            engine := none, arbiter := ⟨.port .a, none, 0⟩
            calendar := { s.calendar with sweep := .idle, nextStore := 0 } })) ∧
      ∀ (u : State) (n : Nat) (pr : Process),
        ((u.chart n pr).state = .off ∨ (u.chart n pr).state = .suspended → visitChart n pr u = u) ∧
        ((u.chart n pr).state = .active ∨ (u.chart n pr).state = .overdue →
          (∀ pk, (u.chart n pr).parked = some pk → visitChart n pr u =
            finishOwed n pr .condition (missStep n pr
              (match retryStart n pr pk u with
                | (some ev, v) => (runCommit ev (classifyNow ev v) v).2
                | (none, v) => v))) ∧
          ((u.chart n pr).parked = none → visitChart n pr u = finishOwed n pr .condition (missStep n pr u)))

/-- The parked retry: with its lot not active nothing changes; with its day before C − W the slot is emptied and the
stale count rises; else it is evaluated with the snapshots now held, and the commit is that of a posted reading, or
parks it again when its lot is not active. The result and the commit are those that CLASSIFY and EVALUATION_COMMIT
give a posted reading in the same state, but for the reply and the end of the operation. (R82, R83, R84, R93, R134) -/
def Obligations.RetryOfAParkedReading : Prop :=
  (∀ (s : State) (c : Caller) (ev : Evaluation),
    exec .classify { s with engine := some (.evaluating c (.computed ev)) } =
      .next { s with engine := some (.evaluating c (.classified ev (classifyNow ev s))) }) ∧
  (∀ (s : State) (c : Caller) (ev : Evaluation) (res : Result), ∃ rep,
    exec (.evaluationCommit .whole) { s with engine := some (.evaluating c (.classified ev res)) } =
      .next (finishOperation c rep (runCommit ev res s).2)) ∧
  ∀ (s : State) (n : Nat) (pr : Process) (pk : Parked),
    let ch := s.chart n pr
    let cal := s.calendar
    (findLot (s.table pr).lots pk.lot = none → retryStart n pr pk s = (none, s)) ∧
    (∀ lot, findLot (s.table pr).lots pk.lot = some lot → pk.day + cal.lateWindow < cal.day →
      retryStart n pr pk s = (none, s.setChart n pr { ch with
        parked := none, staleCount := if ch.staleCount < 65535 then ch.staleCount + 1 else ch.staleCount })) ∧
    (∀ lot, findLot (s.table pr).lots pk.lot = some lot → cal.day ≤ pk.day + cal.lateWindow → ∃ ev,
      retryStart n pr pk s = (some ev, s) ∧ ev.reading = ⟨n, pr, pk.lot, pk.day, pk.codes⟩ ∧
      ev = compute (s.entry n).instrument ch ev.reading cal.day cal.lateWindow lot (s.table pr).profile) ∧
    ∀ (ev : Evaluation) (res : Result),
      (∀ offers t, commitWrite ev res s = some (offers, t) →
        (runCommit ev res s).2 = offers.foldl (fun u o => (offerOrOwe o u).2) t) ∧
      (commitWrite ev res s = none → (runCommit ev res s).2 =
        (offerOrOwe ⟨ev.reading.store, ev.reading.process, .held, .unknownLot, ev.reading.day, .watch, 0, 0, [], none,
          some ev.reading.lot⟩
          (s.setChart ev.reading.store ev.reading.process { s.chart ev.reading.store ev.reading.process with
            parked := some ⟨ev.reading.lot, ev.reading.day, ev.reading.codes⟩ })).2)

/-- The miss count and the overdue step: a miss is counted when the enrol day is not later than D and L is absent or
earlier than D; then the missed count rises, held to 255, an ACTIVE chart at the overdue limit of the profile becomes
OVERDUE, and an OVERDUE chart is offered OVERDUE with D and the count. Without a miss nothing changes. (R135, R136) -/
def Obligations.MissesAndOverdue : Prop :=
  ∀ (s : State) (n : Nat) (pr : Process),
    let ch := s.chart n pr
    let d := s.calendar.closingDay
    let limit := (s.table pr).profile.values.overdueLimit
    let missed := min 255 (ch.missed + 1)
    let counted := ch.enrolDay ≤ d ∧ ∀ l, ch.lastDay = some l → l < d
    let overdue := (⟨n, pr, .attendance, .overdue, d, .watch, 0, 0, [], some missed, none⟩ : Offer)
    (¬ counted → missStep n pr s = s) ∧
    (counted → ch.state = .active → missed < limit →
      missStep n pr s = s.setChart n pr { ch with missed := missed }) ∧
    (counted → (ch.state = .active ∧ limit ≤ missed) ∨ ch.state = .overdue →
      missStep n pr s = (offerOrOwe overdue (s.setChart n pr { ch with missed := missed, state := .overdue })).2)

/-- Owed re-issue, class by class in the order CONDITION, ATTENDANCE, HELD: a set mark whose class applies has its
notice rebuilt from the chart and offered, and is cleared unless the offer is refused; one whose class does not apply
is cleared; a mark that is not set is left. (R137, R138) -/
def Obligations.OwedNoticesAreReissued : Prop :=
  ∀ (s : State) (n : Nat) (pr : Process),
    let ch := s.chart n pr
    let cleared := fun (cls : NoticeClass) (t : State) =>
      t.modChart n pr fun x => { x with owed := x.owed.clear cls }
    finishOwed n pr .condition s = owedStep n pr .held (owedStep n pr .attendance (owedStep n pr .condition s)) ∧
    ∀ cls,
      (ch.owed.get cls = false → owedStep n pr cls s = s) ∧
      (ch.owed.get cls = true →
        ((match cls with
            | .condition => ∀ r, ch.lastResult = some r → r.code = 0
            | .attendance => ch.state ≠ .overdue ∧ (ch.state = .active → ch.lastDay = none)
            | .held => ch.parked = none) → owedStep n pr cls s = cleared cls s) ∧
        ∀ o : Offer,
          (match cls with
            | .condition => ∃ r, ch.lastResult = some r ∧ r.code ≠ 0 ∧
              o = ⟨n, pr, .condition, .drift, r.day, r.severity, r.code, r.matched, r.deviations, none, none⟩
            | .attendance =>
              (ch.state = .overdue ∧ o = ⟨n, pr, .attendance, .overdue, s.calendar.closingDay, .watch, 0, 0, [],
                some ch.missed, none⟩) ∨
              ∃ l, ch.state = .active ∧ ch.lastDay = some l ∧
                o = ⟨n, pr, .attendance, .resumed, l, .info, 0, 0, [], some ch.missed, none⟩
            | .held => ∃ pk, ch.parked = some pk ∧
              o = ⟨n, pr, .held, .unknownLot, pk.day, .watch, 0, 0, [], none, some pk.lot⟩) →
          ((takeOffer o s).1 = .refused → owedStep n pr cls s = (takeOffer o s).2) ∧
          ((takeOffer o s).1 ≠ .refused → owedStep n pr cls s = cleared cls (takeOffer o s).2))

/-- The extents: a commit or a slice run part by part, with nothing taken in between, comes to the same state as one
run whole. The parts of a slice: the lot question of a retry, whose snapshots it keeps; the calendar question, with C
and W as they then stand; the stages of the retry's evaluation, those of a posted reading but for their end; the miss
count with the limit question, which leaves an OVERDUE offer due; that offer; the classes of step 4; past the last
chart, the end. Another block's step may fall between two of them (R114, R133); the places of these points are the
model's (DEDUCED, notes/assumptions/4.md). (R114, R133, R134, R136) -/
def Obligations.PartsComeToTheWhole : Prop :=
  (∀ t : State,
    exec (.evaluationCommit .part) t = .next (commitPart t) ∧
    exec (.evaluationCommit .whole) t = .next (commitStage t) ∧
    exec (.sweepSlice .part) t = .next (slicePart t) ∧ exec (.sweepSlice .whole) t = .next (sliceStage t)) ∧
  (∀ (s : State) (c : Caller) (st : EvalStage), s.engine = some (.evaluating c st) →
    (∀ ev, st ≠ .computed ev) → ∃ k, Nat.iterate commitPart k s = commitStage s) ∧
  (∀ (s : State) (i : Nat) (st : VisitStage), s.engine = some (.slice i st) →
    ∃ k, Nat.iterate slicePart k s = sliceStage s) ∧
  (∀ (s : State) (ev : Evaluation), evalPart (.computed ev) s = (.classified ev (classifyNow ev s), s)) ∧
  (∀ (s : State) (c : Caller) (st : EvalStage), s.engine = some (.evaluating c st) → (∀ ev, st ≠ .computed ev) →
    (∀ rep, st ≠ .ending rep) → exec (.evaluationCommit .part) s =
      .next { (evalPart st s).2 with engine := some (.evaluating c (evalPart st s).1) }) ∧
  ∀ (s : State) (i : Nat),
    let n := s.calendar.nextStore + i / 2
    let pr : Process := if i % 2 = 0 then .f else .p
    let ch := s.chart n pr
    let profile := (s.table pr).profile
    let cal := s.calendar
    let at_ := fun st => s.engine = some (.slice i st)
    let part := exec (.sweepSlice .part) s
    (i < 16 →
      (at_ .arrive → ch.state = .off ∨ ch.state = .suspended → part = .next
        { s with engine := some (.slice (i + 1) .arrive) }) ∧
      (at_ .arrive → ch.state = .active ∨ ch.state = .overdue →
        (∀ pk, ch.parked = some pk → findLot (s.table pr).lots pk.lot = none) → part = .next
          { s with engine := some (.slice i .miss) }) ∧
      (∀ pk lot, at_ .arrive → ch.state = .active ∨ ch.state = .overdue → ch.parked = some pk →
        findLot (s.table pr).lots pk.lot = some lot → part = .next
          { s with engine := some (.slice i (.snapped ⟨n, pr, pk.lot, pk.day, pk.codes⟩ lot profile)) }) ∧
      (∀ rd lot pf, at_ (.snapped rd lot pf) →
        (cal.day ≤ rd.day + cal.lateWindow → part = .next { s with engine := some (.slice i (.retry (.computed
          (compute (s.entry rd.store).instrument (s.chart rd.store rd.process) rd cal.day cal.lateWindow lot
            pf)))) }) ∧
        (rd.day + cal.lateWindow < cal.day → part = .next
          { s.modChart rd.store rd.process (fun x => { x with
              parked := none
              staleCount := if x.staleCount < 65535 then x.staleCount + 1 else x.staleCount }) with
            engine := some (.slice i .miss) })) ∧
      (∀ st st' t, at_ (.retry st) → evalPart st s = (st', t) →
        ((∀ rep, st' ≠ .ending rep) → part = .next { t with engine := some (.slice i (.retry st')) }) ∧
        ∀ rep, st' = .ending rep → part = .next { t with engine := some (.slice i .miss) }) ∧
      (let missed := min 255 (ch.missed + 1);
        let counted := ch.enrolDay ≤ cal.closingDay ∧ ∀ l, ch.lastDay = some l → l < cal.closingDay;
        at_ .miss →
          (counted → (ch.state = .active ∧ profile.values.overdueLimit ≤ missed) ∨ ch.state = .overdue →
            part = .next { s.setChart n pr { ch with missed := missed, state := .overdue } with
              engine := some (.slice i (.overdue missed)) }) ∧
          (counted → ch.state = .active → missed < profile.values.overdueLimit →
            part = .next { s.setChart n pr { ch with missed := missed } with
              engine := some (.slice i (.owed .condition)) }) ∧
          (¬ counted → part = .next { s with engine := some (.slice i (.owed .condition)) })) ∧
      (∀ missed, at_ (.overdue missed) → part = .next
        { (offerOrOwe ⟨n, pr, .attendance, .overdue, cal.closingDay, .watch, 0, 0, [], some missed, none⟩ s).2 with
          engine := some (.slice i (.owed .condition)) }) ∧
      (at_ (.owed .condition) → part = .next
        { owedStep n pr .condition s with engine := some (.slice i (.owed .attendance)) }) ∧
      (at_ (.owed .attendance) → part = .next
        { owedStep n pr .attendance s with engine := some (.slice i (.owed .held)) }) ∧
      (at_ (.owed .held) → part = .next
        { owedStep n pr .held s with engine := some (.slice (i + 1) .arrive) })) ∧
    (at_ .arrive → i = 16 → part = .next (arbitrate
      (if cal.nextStore + 8 < 1024 then
        { s with
          engine := none, arbiter := ⟨.port .a, none, 0⟩
          calendar := { cal with nextStore := cal.nextStore + 8 } }
      else raiseAll .sweep
        { s with
          engine := none, arbiter := ⟨.port .a, none, 0⟩
          calendar := { cal with sweep := .idle, nextStore := 0 } })))

/-! ## Invariants -/

/-- Every invariant holds at device reset. (R17, R21, R39, R112, R113, R127, R144, R169) -/
def Obligations.InvariantsHoldAtReset : Prop :=
  StoresOk State.reset ∧ NoticesOk State.reset ∧ ReferenceOk State.reset ∧ PortsOk State.reset ∧
  CalendarOk State.reset ∧ ArbiterOk State.reset ∧ EnrolmentOk State.reset ∧ StoreCountsOk State.reset ∧
  ChartsOk State.reset

/-- Every step keeps the Notice Queue's form: at most 64 entries, distinct ids 1..65535, one entry for each chart and
class, occurrences 1..255, the counter in 1..65535. (R111, R112, R113, R114) -/
def Obligations.NoticeQueueKeepsItsForm : Prop :=
  ∀ s t : State, NoticesOk s → step s = .next t → NoticesOk t

/-- Every step keeps the Reference Table and the staging records in range: ascending lots, at most 16, consistent, a
last usable day, when there is one, in 0..65535; CL not above AL in an active profile. (R16, R17, R18, R20, R23, R24,
R25, R28) -/
def Obligations.ReferenceTableStaysInRange : Prop :=
  ∀ s t : State, ReferenceOk s → step s = .next t → ReferenceOk t

/-- Every step keeps each port in range, and what it sends the oldest refusal or the oldest reply. (R156, R158, R162,
R163, R164) -/
def Obligations.PortsStayInRange : Prop :=
  ∀ s t : State, PortsOk s → step s = .next t → PortsOk t

/-- Every step keeps the calendar in range (C and D 0..65535, W 0..14), with C at D + 1 while SWEEPING, and the Store
Table in its canonical form. Every step keeps the charts' values: E, deviations, runs (sign 0 exactly at count 0) and
results in range, an OFF chart at its OFF values, enrol day and L not later than C, a parked day not earlier than L
and not later than C; no notice names an OFF chart. The premises of the last clause are the invariants of
EnrolmentCountIsRight, ReferenceTableStaysInRange and the first clause. (R38, R39, R43, R44, R50, R67, R75, R126,
R127, R131, R139) -/
def Obligations.CalendarAndStoresKeepTheirForm : Prop :=
  (∀ s t : State, CalendarOk s → step s = .next t → CalendarOk t) ∧
  (∀ s t : State, StoresOk s → step s = .next t → StoresOk t) ∧
  ∀ s t : State, ReferenceOk s → CalendarOk s → EnrolmentOk s → ChartsOk s → step s = .next t → ChartsOk t

/-- After every step the engine is granted if anyone asks for it, and at most one request is in flight, at the head of
its port's queue. (R143, R144, R145, R146, R149) -/
def Obligations.ArbiterLeavesNoOneWaiting : Prop :=
  ∀ s t : State, PortsOk s → ArbiterOk s → step s = .next t → ArbiterOk t

/-- After every step the enrolment count is the number of charts that are not OFF, plus one for an enrolment or a
restore between its grant and its commit. (R53) -/
def Obligations.EnrolmentCountIsRight : Prop :=
  ∀ s t : State, EnrolmentOk s → step s = .next t → EnrolmentOk t

/-- After every step each lot's store count is the number of charts on it, and no chart is on a lot that is not
active. (R19, R83) -/
def Obligations.StoreCountsAreRight : Prop :=
  ∀ s t : State, ReferenceOk s → StoreCountsOk s → step s = .next t → StoreCountsOk t

/-- An octet of a body and its bits are read at their offsets, and twelve fields in item order. A two-octet field is
read back from a body as it was written, in both byte orders, signed and unsigned; a reply body is the status octet
and the fields in order, each of one octet, or of two in the byte order, a signed one in two's complement. Each
request has the code, the right, the body lengths and the owner (engine or not) of its rows in the tables of R172,
R157 and R142, and no other octet names a request; statuses and enumerations have their numbers. The head that waits
is the first place not yet answered. A port is present when the head of its queue is an engine request not yet
granted, unless its own operation is in flight (DEDUCED, notes/assumptions/21.md); SWEEP while the sweep runs with no
slice in flight. (R2, R142, R143, R145, R157, R159, R171, R172, R173) -/
def Obligations.FieldsReadBack : Prop :=
  (∀ (o : ByteOrder) (b : List Octet) (k i : Nat) (st : Status),
    u8 b k = (b.getD k 0).toNat ∧ bit8 b k i = (b.getD k 0).getLsbD i ∧
    (∀ pa ch, (items16 o b k).item pa ch = u16 o b (k + 2 * itemNumber pa ch)) ∧ Reply.bare st = ⟨st, []⟩) ∧
  allPvs = ([.base, .speed, .contrast, .top].flatMap fun g => [.r, .g, .b].map fun ch => (g, ch)) ∧
  (∀ (s : State) (p : Port) (r : Request), waitingHead s p = some r ↔
    (∀ op, s.engine = some op → op.port? ≠ some p) ∧
    ∃ before after, (s.port p).places = before ++ ⟨r, .waiting⟩ :: after ∧ ∀ x ∈ before, x.isAnswered = true) ∧
  (∀ (order : ByteOrder) (v : BitVec 16) (front back : List Octet),
    u16 order (front ++ octets16 order v ++ back) front.length = v.toNat ∧
    s16 order (front ++ octets16 order v ++ back) front.length = v.toInt ∧
    octets16 .big v = [v.extractLsb' 8 8, v.extractLsb' 0 8] ∧
    octets16 .little v = (octets16 .big v).reverse) ∧
  (∀ (order : ByteOrder) (n : Nat) (i : Int) (rep : Reply),
    Field.octets order (.o8 n) = [BitVec.ofNat 8 n] ∧
    Field.octets .big (.o16 n) = [BitVec.ofNat 8 (n / 256), BitVec.ofNat 8 n] ∧
    Field.octets .little (.o16 n) = [BitVec.ofNat 8 n, BitVec.ofNat 8 (n / 256)] ∧
    Field.octets order (.o16s i) = Field.octets order (.o16 (i % 65536).toNat) ∧
    rep.octets order = BitVec.ofNat 8 (statusOctet rep.status) :: rep.fields.flatMap (Field.octets order)) ∧
  (∀ (r : Rights) (n : Nat),
    let row := fun (k : RequestCode) (code : Octet) (engine right : Bool) (lengths : List Nat) =>
      codeOctet k = code ∧ isEngineWork k = engine ∧ hasRight r k = right ∧ (admitsLength k n = true ↔ n ∈ lengths)
    row .postReading 0x01 true r.post [31] ∧ row .enrolChart 0x02 true r.edit [5] ∧
    row .withdrawChart 0x03 true r.edit [3] ∧ row .suspendChart 0x04 true r.edit [3] ∧
    row .resumeChart 0x05 true r.edit [4] ∧ row .restartChart 0x06 true r.edit [3] ∧
    row .setHold 0x07 true r.edit [5] ∧ row .setInstrument 0x08 true r.edit [9] ∧ row .readChart 0x09 true true [3] ∧
    row .restoreChart 0x0A true r.edit ((List.range 13).map fun i => 132 + 3 * i) ∧
    row .stageLot 0x10 false r.edit [57] ∧ row .promoteLot 0x11 false r.edit [1] ∧
    row .retireLot 0x12 false r.edit [3] ∧ row .readLot 0x13 false true [4] ∧ row .listLots 0x14 false true [1] ∧
    row .stageProfile 0x15 false r.edit [46] ∧ row .promoteProfile 0x16 false r.edit [1] ∧
    row .readProfile 0x17 false true [2] ∧ row .writePattern 0x20 false r.edit [23] ∧
    row .readPattern 0x21 false true [1] ∧ row .listNotices 0x28 false true [3] ∧
    row .acknowledgeNotice 0x29 false r.ack [3] ∧ row .closeDay 0x30 false r.cal [0] ∧
    row .setCalendar 0x31 false r.cal [2] ∧ row .setLateWindow 0x32 false r.cal [1] ∧
    row .readCalendar 0x33 false true [0] ∧ row .setWindow 0x38 false r.edit [5] ∧
    row .setPortOptions 0x39 false true [2] ∧ row .readFlags 0x3A false true [0] ∧
    row .clearFlags 0x3B false true [1] ∧ row .setFlagEnables 0x3C false true [1] ∧
    row .identify 0x3D false true [0]) ∧
  (∀ s : State,
    (∀ p, present s (.port p) = true ↔
      (match s.engine with
        | none => True
        | some (.slice _ _) => True
        | some (.granted c) => c.port ≠ p
        | some (.evaluating c _) => c.port ≠ p
        | some (.enrolling c _ _ _) => c.port ≠ p
        | some (.withdrawing c _ _) => c.port ≠ p
        | some (.restoring c _ _ _) => c.port ≠ p) ∧
      ∃ before r after, (s.port p).places = before ++ ⟨r, .waiting⟩ :: after ∧
        (∀ x ∈ before, x.isAnswered = true) ∧ isEngineWork r.code = true) ∧
    (present s .sweep = true ↔ s.calendar.sweep = .sweeping ∧ ∀ i st, s.engine ≠ some (.slice i st))) ∧
  (∀ (o : Octet) (k : RequestCode), codeOfOctet o = some k ↔ codeOctet k = o) ∧
  (([.ok, .clamped, .started, .parked, .busy, .aborted, .badCode, .badLength, .badValue, .noRight, .outOfWindow,
     .notEnrolled, .exists_, .suspended, .futureDay, .notFound, .revisionMismatch, .tableFull, .inUse, .inconsistent,
     .noStaging, .changed, .tooLate, .staleDay, .sweepActive, .calendarLocked,
     .calendarEnd] : List Status).map statusOctet =
    [0x00, 0x01, 0x02, 0x03, 0x10, 0x11, 0x12, 0x13, 0x14, 0x15, 0x20, 0x21, 0x22, 0x23, 0x24, 0x25, 0x26, 0x27,
      0x28, 0x29, 0x2A, 0x2B, 0x2C, 0x2D, 0x30, 0x31, 0x32]) ∧
  ([.f, .p].map processNumber = [0, 1] ∧ [.a, .b, .c].map portNumber = [0, 1, 2] ∧
    [.big, .little].map byteOrderNumber = [0, 1] ∧ [.info, .watch, .adjust, .stop].map severityNumber = [0, 1, 2, 3] ∧
    [.none, .up, .down, .mixed].map symptomNumber = [0, 1, 2, 3] ∧ [.absent, .present].map spreadNumber = [0, 1] ∧
    [.none, .up, .down, .any].map expectNumber = [0, 1, 2, 3] ∧
    [.plain, .confirmed, .onset, .cleared].map persistenceNumber = [0, 1, 2, 3] ∧
    [.idle, .sweeping].map sweepStateNumber = [0, 1] ∧
    (∀ g ch, pvNumber g ch = 3 * g.number + ch.number) ∧ (∀ pa ch, itemNumber pa ch = 3 * pa.number + ch.number) ∧
    [.base, .speed, .contrast, .top].map Group.number = [0, 1, 2, 3] ∧ [.r, .g, .b].map Channel.number = [0, 1, 2] ∧
    [.dmin, .low, .high, .dmax].map Patch.number = [0, 1, 2, 3])
end

