-- ==== Sys2Proof/Laws/State.lean ====
section
/-! SUPPORT. Laws of the state's updates: what each named update leaves alone, field by field, and what it writes. -/

namespace Sys2Proof.Machine

/-! ## Ports -/

@[simp] theorem port_setPort_same (s : State) (p : Port) (x : PortState) : (s.setPort p x).port p = x := by
  cases p <;> rfl

theorem port_setPort_other (s : State) (p q : Port) (x : PortState) (h : q ≠ p) :
    (s.setPort p x).port q = s.port q := by
  cases p <;> cases q <;> first | rfl | exact absurd rfl h

@[simp] theorem port_modPort_same (s : State) (p : Port) (f : PortState → PortState) :
    (s.modPort p f).port p = f (s.port p) := port_setPort_same s p _

theorem port_modPort_other (s : State) (p q : Port) (f : PortState → PortState) (h : q ≠ p) :
    (s.modPort p f).port q = s.port q := port_setPort_other s p q _ h

theorem port_modPort (s : State) (p q : Port) (f : PortState → PortState) :
    (s.modPort p f).port q = if q = p then f (s.port p) else s.port q := by
  cases p <;> cases q <;> rfl

@[simp] theorem modPort_modPort (s : State) (p : Port) (f g : PortState → PortState) :
    (s.modPort p f).modPort p g = s.modPort p (g ∘ f) := by cases p <;> rfl

@[simp] theorem setPort_port (s : State) (p : Port) : s.setPort p (s.port p) = s := by cases p <;> rfl

theorem port_mk (s : State) (q : Port) (x : Ports) :
    ({ s with ports := x } : State).port q = (match q with | .a => x.a | .b => x.b | .c => x.c) := by
  cases q <;> rfl

@[simp] theorem pending_setPort (s : State) (p : Port) (x : PortState) : (s.setPort p x).pending = s.pending := by
  cases p <;> rfl

@[simp] theorem resetHeld_setPort (s : State) (p : Port) (x : PortState) : (s.setPort p x).resetHeld = s.resetHeld := by
  cases p <;> rfl

@[simp] theorem arbiter_setPort (s : State) (p : Port) (x : PortState) : (s.setPort p x).arbiter = s.arbiter := by
  cases p <;> rfl

@[simp] theorem engine_setPort (s : State) (p : Port) (x : PortState) : (s.setPort p x).engine = s.engine := by
  cases p <;> rfl

@[simp] theorem refs_setPort (s : State) (p : Port) (x : PortState) : (s.setPort p x).refs = s.refs := by
  cases p <;> rfl

@[simp] theorem stores_setPort (s : State) (p : Port) (x : PortState) : (s.setPort p x).stores = s.stores := by
  cases p <;> rfl

@[simp] theorem patterns_setPort (s : State) (p : Port) (x : PortState) : (s.setPort p x).patterns = s.patterns := by
  cases p <;> rfl

@[simp] theorem notices_setPort (s : State) (p : Port) (x : PortState) : (s.setPort p x).notices = s.notices := by
  cases p <;> rfl

@[simp] theorem calendar_setPort (s : State) (p : Port) (x : PortState) : (s.setPort p x).calendar = s.calendar := by
  cases p <;> rfl

@[simp] theorem pending_modPort (s : State) (p : Port) (f : PortState → PortState) :
    (s.modPort p f).pending = s.pending := pending_setPort s p _

@[simp] theorem resetHeld_modPort (s : State) (p : Port) (f : PortState → PortState) :
    (s.modPort p f).resetHeld = s.resetHeld := resetHeld_setPort s p _

@[simp] theorem arbiter_modPort (s : State) (p : Port) (f : PortState → PortState) :
    (s.modPort p f).arbiter = s.arbiter := arbiter_setPort s p _

@[simp] theorem engine_modPort (s : State) (p : Port) (f : PortState → PortState) :
    (s.modPort p f).engine = s.engine := engine_setPort s p _

@[simp] theorem refs_modPort (s : State) (p : Port) (f : PortState → PortState) :
    (s.modPort p f).refs = s.refs := refs_setPort s p _

@[simp] theorem stores_modPort (s : State) (p : Port) (f : PortState → PortState) :
    (s.modPort p f).stores = s.stores := stores_setPort s p _

@[simp] theorem patterns_modPort (s : State) (p : Port) (f : PortState → PortState) :
    (s.modPort p f).patterns = s.patterns := patterns_setPort s p _

@[simp] theorem notices_modPort (s : State) (p : Port) (f : PortState → PortState) :
    (s.modPort p f).notices = s.notices := notices_setPort s p _

@[simp] theorem calendar_modPort (s : State) (p : Port) (f : PortState → PortState) :
    (s.modPort p f).calendar = s.calendar := calendar_setPort s p _

@[simp] theorem port_set_pending (s : State) (q : Port) (x) : ({ s with pending := x } : State).port q = s.port q := by
  cases q <;> rfl

@[simp] theorem port_set_resetHeld (s : State) (q : Port) (x) : ({ s with resetHeld := x } : State).port q = s.port q := by
  cases q <;> rfl

@[simp] theorem port_set_arbiter (s : State) (q : Port) (x) : ({ s with arbiter := x } : State).port q = s.port q := by
  cases q <;> rfl

@[simp] theorem port_set_engine (s : State) (q : Port) (x) : ({ s with engine := x } : State).port q = s.port q := by
  cases q <;> rfl

@[simp] theorem port_set_refs (s : State) (q : Port) (x) : ({ s with refs := x } : State).port q = s.port q := by
  cases q <;> rfl

@[simp] theorem port_set_stores (s : State) (q : Port) (x) : ({ s with stores := x } : State).port q = s.port q := by
  cases q <;> rfl

@[simp] theorem port_set_patterns (s : State) (q : Port) (x) : ({ s with patterns := x } : State).port q = s.port q := by
  cases q <;> rfl

@[simp] theorem port_set_notices (s : State) (q : Port) (x) : ({ s with notices := x } : State).port q = s.port q := by
  cases q <;> rfl

@[simp] theorem port_set_calendar (s : State) (q : Port) (x) : ({ s with calendar := x } : State).port q = s.port q := by
  cases q <;> rfl

@[simp] theorem pending_raiseAll (f : Flag) (s : State) : (raiseAll f s).pending = s.pending := rfl

@[simp] theorem resetHeld_raiseAll (f : Flag) (s : State) : (raiseAll f s).resetHeld = s.resetHeld := rfl

@[simp] theorem arbiter_raiseAll (f : Flag) (s : State) : (raiseAll f s).arbiter = s.arbiter := rfl

@[simp] theorem engine_raiseAll (f : Flag) (s : State) : (raiseAll f s).engine = s.engine := rfl

@[simp] theorem refs_raiseAll (f : Flag) (s : State) : (raiseAll f s).refs = s.refs := rfl

@[simp] theorem stores_raiseAll (f : Flag) (s : State) : (raiseAll f s).stores = s.stores := rfl

@[simp] theorem patterns_raiseAll (f : Flag) (s : State) : (raiseAll f s).patterns = s.patterns := rfl

@[simp] theorem notices_raiseAll (f : Flag) (s : State) : (raiseAll f s).notices = s.notices := rfl

@[simp] theorem calendar_raiseAll (f : Flag) (s : State) : (raiseAll f s).calendar = s.calendar := rfl

@[simp] theorem port_raiseAll (f : Flag) (s : State) (q : Port) :
    (raiseAll f s).port q = raisePort f (s.port q) := by cases q <;> rfl

/-! ## Charts and tables -/

@[simp] theorem pending_setEntry (s : State) (n : Nat) (e : StoreEntry) : (s.setEntry n e).pending = s.pending := rfl

@[simp] theorem pending_setChart (s : State) (n : Nat) (pr : Process) (c : Chart) :
    (s.setChart n pr c).pending = s.pending := rfl

@[simp] theorem pending_modChart (s : State) (n : Nat) (pr : Process) (f : Chart → Chart) :
    (s.modChart n pr f).pending = s.pending := rfl

@[simp] theorem resetHeld_setEntry (s : State) (n : Nat) (e : StoreEntry) : (s.setEntry n e).resetHeld = s.resetHeld := rfl

@[simp] theorem resetHeld_setChart (s : State) (n : Nat) (pr : Process) (c : Chart) :
    (s.setChart n pr c).resetHeld = s.resetHeld := rfl

@[simp] theorem resetHeld_modChart (s : State) (n : Nat) (pr : Process) (f : Chart → Chart) :
    (s.modChart n pr f).resetHeld = s.resetHeld := rfl

@[simp] theorem ports_setEntry (s : State) (n : Nat) (e : StoreEntry) : (s.setEntry n e).ports = s.ports := rfl

@[simp] theorem ports_setChart (s : State) (n : Nat) (pr : Process) (c : Chart) :
    (s.setChart n pr c).ports = s.ports := rfl

@[simp] theorem ports_modChart (s : State) (n : Nat) (pr : Process) (f : Chart → Chart) :
    (s.modChart n pr f).ports = s.ports := rfl

@[simp] theorem arbiter_setEntry (s : State) (n : Nat) (e : StoreEntry) : (s.setEntry n e).arbiter = s.arbiter := rfl

@[simp] theorem arbiter_setChart (s : State) (n : Nat) (pr : Process) (c : Chart) :
    (s.setChart n pr c).arbiter = s.arbiter := rfl

@[simp] theorem arbiter_modChart (s : State) (n : Nat) (pr : Process) (f : Chart → Chart) :
    (s.modChart n pr f).arbiter = s.arbiter := rfl

@[simp] theorem engine_setEntry (s : State) (n : Nat) (e : StoreEntry) : (s.setEntry n e).engine = s.engine := rfl

@[simp] theorem engine_setChart (s : State) (n : Nat) (pr : Process) (c : Chart) :
    (s.setChart n pr c).engine = s.engine := rfl

@[simp] theorem engine_modChart (s : State) (n : Nat) (pr : Process) (f : Chart → Chart) :
    (s.modChart n pr f).engine = s.engine := rfl

@[simp] theorem refs_setEntry (s : State) (n : Nat) (e : StoreEntry) : (s.setEntry n e).refs = s.refs := rfl

@[simp] theorem refs_setChart (s : State) (n : Nat) (pr : Process) (c : Chart) :
    (s.setChart n pr c).refs = s.refs := rfl

@[simp] theorem refs_modChart (s : State) (n : Nat) (pr : Process) (f : Chart → Chart) :
    (s.modChart n pr f).refs = s.refs := rfl

@[simp] theorem patterns_setEntry (s : State) (n : Nat) (e : StoreEntry) : (s.setEntry n e).patterns = s.patterns := rfl

@[simp] theorem patterns_setChart (s : State) (n : Nat) (pr : Process) (c : Chart) :
    (s.setChart n pr c).patterns = s.patterns := rfl

@[simp] theorem patterns_modChart (s : State) (n : Nat) (pr : Process) (f : Chart → Chart) :
    (s.modChart n pr f).patterns = s.patterns := rfl

@[simp] theorem notices_setEntry (s : State) (n : Nat) (e : StoreEntry) : (s.setEntry n e).notices = s.notices := rfl

@[simp] theorem notices_setChart (s : State) (n : Nat) (pr : Process) (c : Chart) :
    (s.setChart n pr c).notices = s.notices := rfl

@[simp] theorem notices_modChart (s : State) (n : Nat) (pr : Process) (f : Chart → Chart) :
    (s.modChart n pr f).notices = s.notices := rfl

@[simp] theorem calendar_setEntry (s : State) (n : Nat) (e : StoreEntry) : (s.setEntry n e).calendar = s.calendar := rfl

@[simp] theorem calendar_setChart (s : State) (n : Nat) (pr : Process) (c : Chart) :
    (s.setChart n pr c).calendar = s.calendar := rfl

@[simp] theorem calendar_modChart (s : State) (n : Nat) (pr : Process) (f : Chart → Chart) :
    (s.modChart n pr f).calendar = s.calendar := rfl

@[simp] theorem pending_setTable (s : State) (pr : Process) (t : ProcTable) : (s.setTable pr t).pending = s.pending := by
  cases pr <;> rfl

@[simp] theorem resetHeld_setTable (s : State) (pr : Process) (t : ProcTable) : (s.setTable pr t).resetHeld = s.resetHeld := by
  cases pr <;> rfl

@[simp] theorem ports_setTable (s : State) (pr : Process) (t : ProcTable) : (s.setTable pr t).ports = s.ports := by
  cases pr <;> rfl

@[simp] theorem arbiter_setTable (s : State) (pr : Process) (t : ProcTable) : (s.setTable pr t).arbiter = s.arbiter := by
  cases pr <;> rfl

@[simp] theorem engine_setTable (s : State) (pr : Process) (t : ProcTable) : (s.setTable pr t).engine = s.engine := by
  cases pr <;> rfl

@[simp] theorem stores_setTable (s : State) (pr : Process) (t : ProcTable) : (s.setTable pr t).stores = s.stores := by
  cases pr <;> rfl

@[simp] theorem patterns_setTable (s : State) (pr : Process) (t : ProcTable) : (s.setTable pr t).patterns = s.patterns := by
  cases pr <;> rfl

@[simp] theorem notices_setTable (s : State) (pr : Process) (t : ProcTable) : (s.setTable pr t).notices = s.notices := by
  cases pr <;> rfl

@[simp] theorem calendar_setTable (s : State) (pr : Process) (t : ProcTable) : (s.setTable pr t).calendar = s.calendar := by
  cases pr <;> rfl

@[simp] theorem pending_modEnrolment (s : State) (f : Nat → Nat) : (s.modEnrolment f).pending = s.pending := rfl

@[simp] theorem resetHeld_modEnrolment (s : State) (f : Nat → Nat) : (s.modEnrolment f).resetHeld = s.resetHeld := rfl

@[simp] theorem ports_modEnrolment (s : State) (f : Nat → Nat) : (s.modEnrolment f).ports = s.ports := rfl

@[simp] theorem arbiter_modEnrolment (s : State) (f : Nat → Nat) : (s.modEnrolment f).arbiter = s.arbiter := rfl

@[simp] theorem engine_modEnrolment (s : State) (f : Nat → Nat) : (s.modEnrolment f).engine = s.engine := rfl

@[simp] theorem refs_modEnrolment (s : State) (f : Nat → Nat) : (s.modEnrolment f).refs = s.refs := rfl

@[simp] theorem stores_modEnrolment (s : State) (f : Nat → Nat) : (s.modEnrolment f).stores = s.stores := rfl

@[simp] theorem patterns_modEnrolment (s : State) (f : Nat → Nat) : (s.modEnrolment f).patterns = s.patterns := rfl

@[simp] theorem notices_modEnrolment (s : State) (f : Nat → Nat) : (s.modEnrolment f).notices = s.notices := rfl

@[simp] theorem port_setEntry (s : State) (n : Nat) (e : StoreEntry) (q : Port) : (s.setEntry n e).port q = s.port q := by
  cases q <;> rfl

@[simp] theorem port_setChart (s : State) (n : Nat) (pr : Process) (c : Chart) (q : Port) :
    (s.setChart n pr c).port q = s.port q := by cases q <;> rfl

@[simp] theorem port_modChart (s : State) (n : Nat) (pr : Process) (f : Chart → Chart) (q : Port) :
    (s.modChart n pr f).port q = s.port q := by cases q <;> rfl

@[simp] theorem port_setTable (s : State) (pr : Process) (t : ProcTable) (q : Port) :
    (s.setTable pr t).port q = s.port q := by cases pr <;> cases q <;> rfl

@[simp] theorem port_modEnrolment (s : State) (f : Nat → Nat) (q : Port) : (s.modEnrolment f).port q = s.port q := by
  cases q <;> rfl

@[simp] theorem enrolment_modEnrolment (s : State) (f : Nat → Nat) :
    (s.modEnrolment f).calendar.enrolment = f s.calendar.enrolment := rfl

@[simp] theorem table_setTable_same (s : State) (pr : Process) (t : ProcTable) : (s.setTable pr t).table pr = t := by
  cases pr <;> rfl

theorem table_setTable_other (s : State) (pr qr : Process) (t : ProcTable) (h : qr ≠ pr) :
    (s.setTable pr t).table qr = s.table qr := by
  cases pr <;> cases qr <;> first | rfl | exact absurd rfl h

@[simp] theorem chart_withChart_same (e : StoreEntry) (pr : Process) (c : Chart) : (e.withChart pr c).chart pr = c := by
  cases pr <;> rfl

theorem chart_withChart_other (e : StoreEntry) (pr qr : Process) (c : Chart) (h : qr ≠ pr) :
    (e.withChart pr c).chart qr = e.chart qr := by
  cases pr <;> cases qr <;> first | rfl | exact absurd rfl h

@[simp] theorem instrument_withChart (e : StoreEntry) (pr : Process) (c : Chart) :
    (e.withChart pr c).instrument = e.instrument := by cases pr <;> rfl

end Sys2Proof.Machine
end

