-- ==== Sys2Proof/Laws/StoreTable.lean ====
section
/-! SUPPORT. Laws of the Store Table: a write keeps the canonical form, and is read back at its store and nowhere
else. -/

namespace Sys2Proof.Machine

theorem storeInsert_mem {t : StoreTable} {n : Nat} {e : StoreEntry} {x : Nat × StoreEntry} (h : x ∈ storeInsert t n e) :
    (x = (n, e) ∧ e ≠ StoreEntry.reset) ∨ x ∈ t := by
  induction t with
  | nil =>
    unfold storeInsert at h
    split at h <;> simp_all
  | cons y rest ih =>
    obtain ⟨k, d⟩ := y
    unfold storeInsert at h
    split at h
    · split at h <;> simp_all
    · split at h
      · split at h <;> simp_all; tauto
      · rcases List.mem_cons.1 h with h | h
        · exact Or.inr (List.mem_cons.2 (Or.inl h))
        · rcases ih h with h | h
          · exact Or.inl h
          · exact Or.inr (List.mem_cons_of_mem _ h)

theorem storeInsert_wf {t : StoreTable} {n : Nat} (e : StoreEntry) (hn : n < Config.stores) (h : storeWf t) :
    storeWf (storeInsert t n e) := by
  refine ⟨?_, fun x hx => ?_⟩
  · induction t with
    | nil => unfold storeInsert; split <;> simp
    | cons y rest ih =>
      obtain ⟨k, d⟩ := y
      have hp := List.pairwise_cons.1 h.1
      have hr : storeWf rest := ⟨hp.2, fun x hx => h.2 x (List.mem_cons_of_mem _ hx)⟩
      unfold storeInsert
      split
      · rename_i hk
        split
        · exact h.1
        · refine List.pairwise_cons.2 ⟨fun x hx => ?_, h.1⟩
          rcases List.mem_cons.1 hx with hx | hx
          · subst hx; exact hk
          · exact Nat.lt_trans hk (hp.1 x hx)
      · split
        · rename_i hk hk'
          subst hk'
          split
          · exact hp.2
          · exact List.pairwise_cons.2 ⟨hp.1, hp.2⟩
        · rename_i hk hk'
          refine List.pairwise_cons.2 ⟨fun x hx => ?_, ih hr⟩
          rcases storeInsert_mem hx with hx | hx
          · rw [hx.1]; show k < n; omega
          · exact hp.1 x hx
  · rcases storeInsert_mem hx with hx | hx
    · rw [hx.1]; exact ⟨hn, hx.2⟩
    · exact h.2 x hx

/-- A write keeps the canonical form. -/
theorem storePut_wf {t : StoreTable} (n : Nat) (e : StoreEntry) (h : storeWf t) : storeWf (storePut t n e) := by
  unfold storePut
  split
  · rename_i hn; exact storeInsert_wf e hn h
  · exact h

/-- A store below every listed one holds the reset entry. -/
theorem storeGet_of_lt {t : StoreTable} {n : Nat} (h : ∀ x ∈ t, n < x.1) : storeGet t n = StoreEntry.reset := by
  induction t with
  | nil => rfl
  | cons y rest ih =>
    obtain ⟨k, d⟩ := y
    have hk : n < k := h (k, d) (List.mem_cons_self ..)
    have : ¬ k = n := by omega
    simp only [storeGet, this, if_false]
    exact ih fun x hx => h x (List.mem_cons_of_mem _ hx)

theorem storeGet_storeInsert {t : StoreTable} {n : Nat} (e : StoreEntry) (m : Nat)
    (h : t.Pairwise fun x y => x.1 < y.1) :
    storeGet (storeInsert t n e) m = if m = n then e else storeGet t m := by
  induction t with
  | nil =>
    unfold storeInsert
    split
    · rename_i he; subst he; split <;> simp_all [storeGet]
    · simp only [storeGet, eq_comm]
  | cons y rest ih =>
    obtain ⟨k, d⟩ := y
    have hp := List.pairwise_cons.1 h
    unfold storeInsert
    split
    · rename_i hk
      have hlow : ∀ x ∈ (k, d) :: rest, n < x.1 := by
        intro x hx
        rcases List.mem_cons.1 hx with hx | hx
        · subst hx; exact hk
        · exact Nat.lt_trans hk (hp.1 x hx)
      split
      · rename_i he
        subst he
        split
        · rename_i hm; subst hm; exact storeGet_of_lt hlow
        · rfl
      · simp only [storeGet, eq_comm (a := n)]
    · split
      · rename_i hk hk'
        subst hk'
        split
        · rename_i he
          subst he
          by_cases hm : m = n
          · subst hm; simp only [if_true]; exact storeGet_of_lt hp.1
          · simp [storeGet, hm, Ne.symm hm]
        · by_cases hm : m = n
          · subst hm; simp [storeGet]
          · simp [storeGet, hm, Ne.symm hm]
      · rename_i hk hk'
        simp only [storeGet]
        split
        · rename_i hm
          subst hm
          have : ¬ k = n := by omega
          simp [this]
        · exact ih hp.2

/-- A write is read back at its store; every other store is as before. There is no store above 1023 to write. -/
theorem storeGet_storePut {t : StoreTable} {n : Nat} (e : StoreEntry) (m : Nat) (h : storeWf t) :
    storeGet (storePut t n e) m = if m = n ∧ n < Config.stores then e else storeGet t m := by
  unfold storePut
  split
  · rename_i hn; rw [storeGet_storeInsert e m h.1]; simp [hn]
  · rename_i hn; simp [hn]

/-- A store above 1023 is not listed: it reads as the reset entry. -/
theorem storeGet_outside {t : StoreTable} {n : Nat} (h : storeWf t) (hn : ¬ n < Config.stores) :
    storeGet t n = StoreEntry.reset := by
  induction t with
  | nil => rfl
  | cons y rest ih =>
    obtain ⟨k, d⟩ := y
    have hk : k < Config.stores := (h.2 (k, d) (List.mem_cons_self ..)).1
    have hne : ¬ k = n := by omega
    simp only [storeGet, hne, if_false]
    exact ih ⟨(List.pairwise_cons.1 h.1).2, fun x hx => h.2 x (List.mem_cons_of_mem _ hx)⟩

theorem storesOk_reset : StoresOk State.reset := ⟨List.Pairwise.nil, fun _ hx => absurd hx (List.not_mem_nil)⟩

theorem storesOk_setEntry {s : State} (n : Nat) (e : StoreEntry) (h : StoresOk s) : StoresOk (s.setEntry n e) :=
  storePut_wf n e h

theorem storesOk_setChart {s : State} (n : Nat) (pr : Process) (c : Chart) (h : StoresOk s) :
    StoresOk (s.setChart n pr c) := storesOk_setEntry n _ h

theorem storesOk_modChart {s : State} (n : Nat) (pr : Process) (f : Chart → Chart) (h : StoresOk s) :
    StoresOk (s.modChart n pr f) := storesOk_setChart n pr _ h

/-- The entries after a write of one entry. -/
theorem entry_setEntry {s : State} (h : StoresOk s) (n m : Nat) (e : StoreEntry) :
    (s.setEntry n e).entry m = if m = n ∧ n < Config.stores then e else s.entry m :=
  storeGet_storePut e m h

/-- The charts after a write of one chart. -/
theorem chart_setChart {s : State} (h : StoresOk s) (n m : Nat) (pr qr : Process) (c : Chart) :
    (s.setChart n pr c).chart m qr = if m = n ∧ n < Config.stores ∧ qr = pr then c else s.chart m qr := by
  show ((s.setEntry n _).entry m).chart qr = _
  rw [entry_setEntry h]
  by_cases hm : m = n ∧ n < Config.stores
  · obtain ⟨rfl, hn⟩ := hm
    by_cases hq : qr = pr
    · subst hq; simp [hn]
    · simp [hn, hq, chart_withChart_other _ _ _ _ hq, State.chart]
  · have : ¬ (m = n ∧ n < Config.stores ∧ qr = pr) := fun hh => hm ⟨hh.1, hh.2.1⟩
    simp only [hm, this, if_false]; rfl

end Sys2Proof.Machine
end

