-- ==== Sys2Proof/Laws/Ops.lean ====
section
/-! SUPPORT. Laws of the shared operations: what an answer, a grant decision and the end of an operation can do. They
change the engine, the arbiter, the marks of a grant and, at the answered port, the queue places and the frame being
sent, and nothing else. -/

namespace Sys2Proof.Machine

/-! ## Queue places -/

@[simp] theorem settled_settled (pl : Place) : pl.settled.settled = pl.settled := by
  rcases pl with ⟨r, _ | _ | _⟩ <;> rfl

/-- A grant takes the waiting head and marks it, no more. -/
theorem map_settled_setHead_inFlight (l : List Place) :
    (setHead .inFlight l).map Place.settled = l.map Place.settled := by
  induction l with
  | nil => rfl
  | cons pl rest ih =>
    rcases pl with ⟨r, _ | _ | rep⟩
    · rfl
    · rfl
    · simp only [setHead, List.map_cons, ih]

theorem length_setHead (pg : Progress) (l : List Place) : (setHead pg l).length = l.length := by
  induction l with
  | nil => rfl
  | cons pl rest ih =>
    rcases pl with ⟨r, _ | _ | rep⟩ <;> simp [setHead, ih]

/-- The head of a queue, and where it stands. -/
theorem queueHead_eq_some {l : List Place} {pl : Place} (h : queueHead l = some pl) :
    ∃ before after, l = before ++ pl :: after ∧ (∀ x ∈ before, x.isAnswered = true) ∧ pl.isAnswered = false ∧
      ∀ pg, setHead pg l = before ++ { pl with progress := pg } :: after := by
  induction l with
  | nil => cases h
  | cons y rest ih =>
    rcases y with ⟨r, _ | _ | rep⟩
    · cases h
      exact ⟨[], rest, rfl, fun _ hx => absurd hx List.not_mem_nil, rfl, fun _ => rfl⟩
    · cases h
      exact ⟨[], rest, rfl, fun _ hx => absurd hx List.not_mem_nil, rfl, fun _ => rfl⟩
    · obtain ⟨b, a, hl, hb, hp, hs⟩ := ih h
      refine ⟨⟨r, .answered rep⟩ :: b, a, by rw [hl]; rfl, fun x hx => ?_, hp, fun pg => ?_⟩
      · rcases List.mem_cons.1 hx with hx | hx
        · subst hx; rfl
        · exact hb x hx
      · simp only [setHead, hs, List.cons_append]

@[simp] theorem places_startSending (ps : PortState) : (startSending ps).places = ps.places := by
  unfold startSending
  split
  · rfl
  · split
    · rfl
    · split <;> rfl

/-- Beginning a frame changes what is being sent, no more. -/
theorem startSending_eq (ps : PortState) : startSending ps = { ps with sending := (startSending ps).sending } := by
  unfold startSending
  split
  · rfl
  · split
    · rfl
    · split <;> rfl

/-- An answer changes the places and what is being sent, no more. -/
theorem answerPlaces_eq (r : Request) (rep : Reply) (ps : PortState) :
    answerPlaces r rep ps =
      { ps with
        places := setHead (.answered (replyFrame ps.byteOrder r rep)) ps.places
        sending := (answerPlaces r rep ps).sending } := by
  unfold answerPlaces
  rw [startSending_eq]

/-! ## The grant decision -/

/-- What a grant decision leaves alone at a port: all but the mark of a grant. -/
def PortKept (x y : PortState) : Prop :=
  x = { y with places := x.places } ∧ x.places.map Place.settled = y.places.map Place.settled

theorem portKept_refl (x : PortState) : PortKept x x := ⟨rfl, rfl⟩

theorem PortKept.trans {x y z : PortState} (h : PortKept x y) (k : PortKept y z) : PortKept x z :=
  ⟨by rw [h.1, k.1], h.2.trans k.2⟩

theorem port_grantTo (q : Requester) (n : Nat) (s : State) (p : Port) :
    PortKept ((grantTo q n s).port p) (s.port p) := by
  unfold grantTo
  split
  · split
    · rename_i g _ r _
      show PortKept ((s.modPort g fun ps => { ps with places := setHead .inFlight ps.places }).port p) _
      rw [port_modPort]
      split
      · rename_i hpq
        subst hpq
        exact ⟨rfl, map_settled_setHead_inFlight _⟩
      · exact portKept_refl _
    · exact portKept_refl _
  · exact portKept_refl _

theorem port_arbitrate (s : State) (p : Port) : PortKept ((arbitrate s).port p) (s.port p) := by
  unfold arbitrate
  split
  · exact portKept_refl _
  · split
    · exact port_grantTo _ _ s p
    · exact portKept_refl _

/-- With an operation in flight no grant decision is made (R146, R149). -/
theorem arbitrate_busy {s : State} (h : s.engine ≠ none) : arbitrate s = s := by
  unfold arbitrate
  split
  · rfl
  · contradiction

/-- With the engine free, the first requester that the search from the pointer finds is granted (R146). -/
theorem arbitrate_free {s : State} {q : Requester} (h : s.engine = none)
    (hq : (rotationFrom s.arbiter.pointer).find? (present s) = some q) : arbitrate s = grantTo q 1 s := by
  unfold arbitrate
  rw [h]
  simp only [hq]

/-- With no requester present the engine stays free (R146). -/
theorem arbitrate_idle {s : State} (h : s.engine = none) (hp : ∀ q, present s q = false) : arbitrate s = s := by
  have hq : (rotationFrom s.arbiter.pointer).find? (present s) = none := by simp [hp]
  unfold arbitrate
  rw [h]
  simp only [hq]

theorem port_passOn (q : Requester) (s : State) (p : Port) : PortKept ((passOn q s).port p) (s.port p) :=
  port_arbitrate { s with arbiter := ⟨q.next, none, 0⟩ } p

theorem port_burstDecision (g : Port) (s : State) (p : Port) : PortKept ((burstDecision g s).port p) (s.port p) := by
  unfold burstDecision
  split
  · exact port_grantTo _ _ s p
  · exact port_passOn _ s p

@[simp] theorem pending_grantTo (q : Requester) (n : Nat) (s : State) : (grantTo q n s).pending = s.pending := by
  unfold grantTo
  split
  · split
    · exact pending_modPort s _ _
    · rfl
  · rfl

@[simp] theorem pending_arbitrate (s : State) : (arbitrate s).pending = s.pending := by
  unfold arbitrate
  split
  · rfl
  · split
    · exact pending_grantTo _ _ s
    · rfl

@[simp] theorem pending_burstDecision (g : Port) (s : State) : (burstDecision g s).pending = s.pending := by
  unfold burstDecision passOn
  split
  · exact pending_grantTo _ _ s
  · exact pending_arbitrate _

@[simp] theorem pending_finishOperation (c : Caller) (rep : Reply) (s : State) :
    (finishOperation c rep s).pending = s.pending := by
  unfold finishOperation
  rw [pending_burstDecision]
  split
  · rfl
  · exact pending_modPort _ _ _

@[simp] theorem pending_answered (s : State) (p : Port) (r : Request) (rep : Reply) :
    (s.answered p r rep).pending = s.pending := by
  unfold State.answered
  rw [pending_arbitrate, pending_modPort]

@[simp] theorem resetHeld_grantTo (q : Requester) (n : Nat) (s : State) : (grantTo q n s).resetHeld = s.resetHeld := by
  unfold grantTo
  split
  · split
    · exact resetHeld_modPort s _ _
    · rfl
  · rfl

@[simp] theorem resetHeld_arbitrate (s : State) : (arbitrate s).resetHeld = s.resetHeld := by
  unfold arbitrate
  split
  · rfl
  · split
    · exact resetHeld_grantTo _ _ s
    · rfl

@[simp] theorem resetHeld_burstDecision (g : Port) (s : State) : (burstDecision g s).resetHeld = s.resetHeld := by
  unfold burstDecision passOn
  split
  · exact resetHeld_grantTo _ _ s
  · exact resetHeld_arbitrate _

@[simp] theorem resetHeld_finishOperation (c : Caller) (rep : Reply) (s : State) :
    (finishOperation c rep s).resetHeld = s.resetHeld := by
  unfold finishOperation
  rw [resetHeld_burstDecision]
  split
  · rfl
  · exact resetHeld_modPort _ _ _

@[simp] theorem resetHeld_answered (s : State) (p : Port) (r : Request) (rep : Reply) :
    (s.answered p r rep).resetHeld = s.resetHeld := by
  unfold State.answered
  rw [resetHeld_arbitrate, resetHeld_modPort]

@[simp] theorem refs_grantTo (q : Requester) (n : Nat) (s : State) : (grantTo q n s).refs = s.refs := by
  unfold grantTo
  split
  · split
    · exact refs_modPort s _ _
    · rfl
  · rfl

@[simp] theorem refs_arbitrate (s : State) : (arbitrate s).refs = s.refs := by
  unfold arbitrate
  split
  · rfl
  · split
    · exact refs_grantTo _ _ s
    · rfl

@[simp] theorem refs_burstDecision (g : Port) (s : State) : (burstDecision g s).refs = s.refs := by
  unfold burstDecision passOn
  split
  · exact refs_grantTo _ _ s
  · exact refs_arbitrate _

@[simp] theorem refs_finishOperation (c : Caller) (rep : Reply) (s : State) :
    (finishOperation c rep s).refs = s.refs := by
  unfold finishOperation
  rw [refs_burstDecision]
  split
  · rfl
  · exact refs_modPort _ _ _

@[simp] theorem refs_answered (s : State) (p : Port) (r : Request) (rep : Reply) :
    (s.answered p r rep).refs = s.refs := by
  unfold State.answered
  rw [refs_arbitrate, refs_modPort]

@[simp] theorem stores_grantTo (q : Requester) (n : Nat) (s : State) : (grantTo q n s).stores = s.stores := by
  unfold grantTo
  split
  · split
    · exact stores_modPort s _ _
    · rfl
  · rfl

@[simp] theorem stores_arbitrate (s : State) : (arbitrate s).stores = s.stores := by
  unfold arbitrate
  split
  · rfl
  · split
    · exact stores_grantTo _ _ s
    · rfl

@[simp] theorem stores_burstDecision (g : Port) (s : State) : (burstDecision g s).stores = s.stores := by
  unfold burstDecision passOn
  split
  · exact stores_grantTo _ _ s
  · exact stores_arbitrate _

@[simp] theorem stores_finishOperation (c : Caller) (rep : Reply) (s : State) :
    (finishOperation c rep s).stores = s.stores := by
  unfold finishOperation
  rw [stores_burstDecision]
  split
  · rfl
  · exact stores_modPort _ _ _

@[simp] theorem stores_answered (s : State) (p : Port) (r : Request) (rep : Reply) :
    (s.answered p r rep).stores = s.stores := by
  unfold State.answered
  rw [stores_arbitrate, stores_modPort]

@[simp] theorem patterns_grantTo (q : Requester) (n : Nat) (s : State) : (grantTo q n s).patterns = s.patterns := by
  unfold grantTo
  split
  · split
    · exact patterns_modPort s _ _
    · rfl
  · rfl

@[simp] theorem patterns_arbitrate (s : State) : (arbitrate s).patterns = s.patterns := by
  unfold arbitrate
  split
  · rfl
  · split
    · exact patterns_grantTo _ _ s
    · rfl

@[simp] theorem patterns_burstDecision (g : Port) (s : State) : (burstDecision g s).patterns = s.patterns := by
  unfold burstDecision passOn
  split
  · exact patterns_grantTo _ _ s
  · exact patterns_arbitrate _

@[simp] theorem patterns_finishOperation (c : Caller) (rep : Reply) (s : State) :
    (finishOperation c rep s).patterns = s.patterns := by
  unfold finishOperation
  rw [patterns_burstDecision]
  split
  · rfl
  · exact patterns_modPort _ _ _

@[simp] theorem patterns_answered (s : State) (p : Port) (r : Request) (rep : Reply) :
    (s.answered p r rep).patterns = s.patterns := by
  unfold State.answered
  rw [patterns_arbitrate, patterns_modPort]

@[simp] theorem notices_grantTo (q : Requester) (n : Nat) (s : State) : (grantTo q n s).notices = s.notices := by
  unfold grantTo
  split
  · split
    · exact notices_modPort s _ _
    · rfl
  · rfl

@[simp] theorem notices_arbitrate (s : State) : (arbitrate s).notices = s.notices := by
  unfold arbitrate
  split
  · rfl
  · split
    · exact notices_grantTo _ _ s
    · rfl

@[simp] theorem notices_burstDecision (g : Port) (s : State) : (burstDecision g s).notices = s.notices := by
  unfold burstDecision passOn
  split
  · exact notices_grantTo _ _ s
  · exact notices_arbitrate _

@[simp] theorem notices_finishOperation (c : Caller) (rep : Reply) (s : State) :
    (finishOperation c rep s).notices = s.notices := by
  unfold finishOperation
  rw [notices_burstDecision]
  split
  · rfl
  · exact notices_modPort _ _ _

@[simp] theorem notices_answered (s : State) (p : Port) (r : Request) (rep : Reply) :
    (s.answered p r rep).notices = s.notices := by
  unfold State.answered
  rw [notices_arbitrate, notices_modPort]

@[simp] theorem calendar_grantTo (q : Requester) (n : Nat) (s : State) : (grantTo q n s).calendar = s.calendar := by
  unfold grantTo
  split
  · split
    · exact calendar_modPort s _ _
    · rfl
  · rfl

@[simp] theorem calendar_arbitrate (s : State) : (arbitrate s).calendar = s.calendar := by
  unfold arbitrate
  split
  · rfl
  · split
    · exact calendar_grantTo _ _ s
    · rfl

@[simp] theorem calendar_burstDecision (g : Port) (s : State) : (burstDecision g s).calendar = s.calendar := by
  unfold burstDecision passOn
  split
  · exact calendar_grantTo _ _ s
  · exact calendar_arbitrate _

@[simp] theorem calendar_finishOperation (c : Caller) (rep : Reply) (s : State) :
    (finishOperation c rep s).calendar = s.calendar := by
  unfold finishOperation
  rw [calendar_burstDecision]
  split
  · rfl
  · exact calendar_modPort _ _ _

@[simp] theorem calendar_answered (s : State) (p : Port) (r : Request) (rep : Reply) :
    (s.answered p r rep).calendar = s.calendar := by
  unfold State.answered
  rw [calendar_arbitrate, calendar_modPort]


/-! ## Owner work and the engine's stages -/

/-- Owner work with the named request at the queue head: taken whole, and answered. -/
theorem serveOwner_at {code : RequestCode} {p : Port} {s : State} {r : Request} (h : waitingHead s p = some r)
    (hc : r.code = code) (take : ByteOrder → List Octet → State → Reply × State) :
    serveOwner code p take s =
      (take (s.port p).byteOrder r.body s).2.answered p r (take (s.port p).byteOrder r.body s).1 := by
  unfold serveOwner State.answered
  rw [h]
  simp only [hc, if_true]

/-- Owner work with no request at the queue head leaves the part as it is. -/
theorem serveOwner_none {code : RequestCode} {p : Port} {s : State} (h : waitingHead s p = none)
    (take : ByteOrder → List Octet → State → Reply × State) : serveOwner code p take s = s := by
  unfold serveOwner
  rw [h]

/-- Engine work whose request has been granted: its checks run. -/
theorem withGranted_at {code : RequestCode} {s : State} {c : Caller} (h : Granted s code c)
    (f : Caller → State → State) : withGranted code f s = f c s := by
  unfold withGranted
  rw [h.1]
  simp only [h.2, if_true]

/-- A granted request on a chart that it names in range. -/
theorem withGranted_onChart {code : RequestCode} {s : State} {c : Caller} {store : Nat} {pr : Process}
    (h : GrantedOn s code c store pr) (f : Caller → Nat → Process → State → State) :
    withGranted code (fun c => onChart c (f c)) s = f c store pr s := by
  rw [withGranted_at h.1]
  unfold onChart
  rw [h.2]

end Sys2Proof.Machine
end

