-- ==== Sys2Proof/Laws/Blocks.lean ====
section
/-! SUPPORT. Laws of the operations that blocks share: bit sets, offers to the Notice Queue, the lots of a table. -/

namespace Sys2Proof.Machine

/-! ## Bit sets -/

/-- Bit i of a set is its test of i (R171). -/
theorem getLsbD_bitsOf (n : Nat) (f : Nat → Bool) (i : Nat) : (bitsOf n f).getLsbD i = (decide (i < n) && f i) := by
  induction n with
  | zero => simp [bitsOf]
  | succ n ih =>
    unfold bitsOf
    rw [BitVec.getLsbD_cons]
    split
    · rename_i h; subst h; simp
    · rename_i h
      rw [ih]
      by_cases hi : i < n
      · have : i < n + 1 := by omega
        simp [hi, this]
      · have : ¬ i < n + 1 := by omega
        simp [hi, this]

/-! ## Fields of a body -/

theorem u8_le (body : List Octet) (i : Nat) : u8 body i ≤ 255 := by
  unfold u8
  omega

/-- A two-octet field, such as a carried day, lies in 0..65535 (R171). -/
theorem u16_le (order : ByteOrder) (body : List Octet) (i : Nat) : u16 order body i ≤ Config.max16 := by
  have h := u8_le body i
  have h' := u8_le body (i + 1)
  show _ ≤ 65535
  cases order <;> simp only [u16] <;> omega

/-! ## Offers -/

/-- A merged or inserted offer is used as it is (R120). -/
theorem offerOrOwe_taken {o : Offer} {s : State} (h : (takeOffer o s).1 ≠ .refused) : offerOrOwe o s = takeOffer o s := by
  unfold offerOrOwe
  rcases hx : takeOffer o s with ⟨_ | _ | _, t⟩
  · rfl
  · rfl
  · rw [hx] at h; exact absurd rfl h

/-- An offer changes the Notice Queue and the event flags of the ports, no more (R114, R119). -/
theorem takeOffer_frame (o : Offer) (s : State) :
    (takeOffer o s).2 = { s with notices := (takeOffer o s).2.notices, ports := (takeOffer o s).2.ports } := by
  unfold takeOffer
  simp only
  split
  · rfl
  · split
    · split <;> rfl
    · rfl

/-- A refused offer leaves the Notice Queue as it is (R118). -/
theorem takeOffer_refused {o : Offer} {s : State} (h : (takeOffer o s).1 = .refused) :
    (takeOffer o s).2 = raiseAll .owed s := by
  unfold takeOffer at h ⊢
  simp only at h ⊢
  split
  · rename_i e he; rw [he] at h; cases h
  · rename_i he
    rw [he] at h
    simp only at h ⊢
    split
    · rename_i hl; rw [if_pos hl] at h; cases h
    · rfl

/-! ## Lots -/

theorem mem_adjustCount {n : Nat} {f : Nat → Nat} {lots : List LotRecord} {l : LotRecord}
    (h : l ∈ adjustCount n f lots) : ∃ x ∈ lots, l.number = x.number ∧ l.revision = x.revision ∧ l.values = x.values ∧
      l.storeCount = if x.number = n then f x.storeCount else x.storeCount := by
  obtain ⟨x, hx, rfl⟩ := List.mem_map.1 h
  refine ⟨x, hx, ?_⟩
  by_cases hn : x.number = n <;> simp [hn]

/-- An adjustment of a store count moves no lot (R19). -/
theorem map_number_adjustCount (n : Nat) (f : Nat → Nat) (lots : List LotRecord) :
    (adjustCount n f lots).map (·.number) = lots.map (·.number) := by
  unfold adjustCount
  rw [List.map_map]
  refine List.map_congr_left fun x _ => ?_
  by_cases hn : x.number = n <;> simp [hn]

theorem mem_insertLot {lots : List LotRecord} {l x : LotRecord} (h : x ∈ insertLot lots l) : x = l ∨ x ∈ lots := by
  induction lots with
  | nil => exact Or.inl (List.mem_singleton.1 h)
  | cons y rest ih =>
    unfold insertLot at h
    split at h
    · rcases List.mem_cons.1 h with h | h
      · exact Or.inl h
      · exact Or.inr h
    · split at h
      · rcases List.mem_cons.1 h with h | h
        · exact Or.inl h
        · exact Or.inr (List.mem_cons_of_mem _ h)
      · rcases List.mem_cons.1 h with h | h
        · exact Or.inr (List.mem_cons.2 (Or.inl h))
        · rcases ih h with h | h
          · exact Or.inl h
          · exact Or.inr (List.mem_cons_of_mem _ h)

/-- A promotion keeps the lots in ascending lot number (R17). -/
theorem insertLot_sorted {lots : List LotRecord} (l : LotRecord) (h : lots.Pairwise fun x y => x.number < y.number) :
    (insertLot lots l).Pairwise fun x y => x.number < y.number := by
  induction lots with
  | nil => exact List.pairwise_singleton _ _
  | cons y rest ih =>
    have hp := List.pairwise_cons.1 h
    unfold insertLot
    split
    · rename_i hl
      refine List.pairwise_cons.2 ⟨fun x hx => ?_, h⟩
      rcases List.mem_cons.1 hx with hx | hx
      · subst hx; exact hl
      · exact Nat.lt_trans hl (hp.1 x hx)
    · split
      · rename_i hl he
        exact List.pairwise_cons.2 ⟨fun x hx => he ▸ hp.1 x hx, hp.2⟩
      · rename_i hl he
        refine List.pairwise_cons.2 ⟨fun x hx => ?_, ih hp.2⟩
        rcases mem_insertLot hx with hx | hx
        · subst hx; show y.number < _; omega
        · exact hp.1 x hx

end Sys2Proof.Machine
end

