-- ==== Sys2Proof/Laws/Charts.lean ====
section
/-! SUPPORT. Laws of chart values: the arithmetic of an evaluation stays in range, and every write of a chart record
keeps it in range (R39, R44, R46, R50, R75). -/

namespace Sys2Proof.Machine

/-! ## Chart records -/

theorem satInc16_le {n : Nat} (h : n ≤ Config.max16) : satInc16 n ≤ Config.max16 := by
  unfold satInc16
  split <;> omega

theorem pvOk_off : PvOk PvState.off := ⟨fun _ h => (nomatch h), by decide, by decide⟩

theorem chartOk_off (day : Nat) : ChartOk day Chart.off where
  off := fun _ => rfl
  lot := by decide
  revision := by decide
  enrolDay := Nat.zero_le _
  lastDay := fun _ h => (nomatch h)
  missed := by decide
  pvs := fun g x => by cases g <;> cases x <;> exact pvOk_off
  lastResult := fun _ h => (nomatch h)
  parked := fun _ h => (nomatch h)
  evaluated := by decide
  stale := by decide
  expired := by decide

/-- A later calendar day keeps a chart record in range (R43). -/
theorem ChartOk.mono {d d' : Nat} {c : Chart} (h : ChartOk d c) (hd : d ≤ d') : ChartOk d' c :=
  { h with
    enrolDay := h.enrolDay.trans hd
    lastDay := fun l hl => (h.lastDay l hl).trans hd
    parked := fun pk hp => { h.parked pk hp with notLate := (h.parked pk hp).notLate.trans hd } }

/-- A change of the owed marks of a chart that is not OFF (R118, R138). -/
theorem ChartOk.withOwed {d : Nat} {c : Chart} (h : ChartOk d c) (hc : c.state ≠ .off) (o : Owed) :
    ChartOk d { c with owed := o } :=
  { h with off := fun hs => absurd hs hc }

/-- Parking a reading that is not stale (R50). -/
theorem ChartOk.park {d : Nat} {c : Chart} (h : ChartOk d c) (hc : c.state ≠ .off) {pk : Parked}
    (hp : ParkedOk d c.lastDay pk) : ChartOk d { c with parked := some pk } :=
  { h with
    off := fun hs => absurd hs hc
    parked := fun x hx => by cases hx; exact hp }

/-- The discard of a parked reading that is too late, and a stale reading, raise the stale count (R48, R51). -/
theorem ChartOk.staleRead {d : Nat} {c : Chart} (h : ChartOk d c) (hc : c.state ≠ .off) :
    ChartOk d { c with staleCount := satInc16 c.staleCount } :=
  { h with off := fun hs => absurd hs hc, stale := satInc16_le h.stale }

theorem ChartOk.discard {d : Nat} {c : Chart} (h : ChartOk d c) (hc : c.state ≠ .off) :
    ChartOk d { c with parked := none, staleCount := satInc16 c.staleCount } :=
  { h with off := fun hs => absurd hs hc, parked := fun _ hx => (nomatch hx), stale := satInc16_le h.stale }

/-- A counted miss (R135, R136). -/
theorem ChartOk.miss {d : Nat} {c : Chart} (h : ChartOk d c) (hc : c.state ≠ .off) (limit : Nat) :
    ChartOk d (missedChart limit c) :=
  { h with
    off := fun hs => by
      unfold missedChart at hs
      simp only at hs
      split at hs
      · cases hs
      · exact absurd hs hc
    missed := Nat.min_le_left _ _ }

/-- An enrolment on the calendar day (R54). -/
theorem ChartOk.enrol {d : Nat} {lot : Nat} (hl : lot ≤ Config.max16) : ChartOk d (enrolledChart lot d Chart.off) :=
  { chartOk_off d with
    off := fun hs => (nomatch hs)
    lot := hl
    enrolDay := Nat.le_refl d
    lastDay := fun _ h => (nomatch h)
    missed := Nat.zero_le _
    parked := fun _ h => (nomatch h) }

/-- Suspension discards the parked reading (R56). -/
theorem ChartOk.suspend {d : Nat} {c : Chart} (h : ChartOk d c) : ChartOk d (suspendedChart c) :=
  { h with off := fun hs => (nomatch hs), parked := fun _ hx => (nomatch hx) }

/-- Restart (R58). -/
theorem ChartOk.restart {d : Nat} {c : Chart} (h : ChartOk d c) (hc : c.state ≠ .off) : ChartOk d (restartedChart c) :=
  { h with
    off := fun hs => absurd hs hc
    pvs := fun g x => by
      unfold restartedChart
      simp only [PerPv.pv_tab]
      exact pvOk_off }

/-- Resumption, with or without restart (R57). -/
theorem ChartOk.resume {d : Nat} {c : Chart} (h : ChartOk d c) (restart : Bool) :
    ChartOk d (resumedChart restart c) := by
  have h' : ChartOk d { c with state := .active, missed := 0 } :=
    { h with off := fun hs => (nomatch hs), missed := Nat.zero_le _ }
  cases restart with
  | false => exact h'
  | true => exact h'.restart (fun hs => (nomatch hs))

/-- A new hold mask (R59). -/
theorem ChartOk.withHold {d : Nat} {c : Chart} (h : ChartOk d c) (hc : c.state ≠ .off) (m : BitVec 12) :
    ChartOk d { c with hold := m } :=
  { h with off := fun hs => absurd hs hc }

/-! ## The arithmetic of an evaluation -/

theorem saturateDeviation_ok (x : Int) : DeviationOk (saturateDeviation x) := by
  unfold saturateDeviation clampInt Config.maxDeviation
  split
  · omega
  · split <;> omega

/-- The step of the EWMA has the sign of the difference and no greater magnitude (R75). -/
theorem ewmaStep_between {w : Nat} (hw : w ≤ 16) (x : Int) :
    (0 ≤ x → 0 ≤ ewmaStep w x ∧ ewmaStep w x ≤ x) ∧ (x < 0 → x ≤ ewmaStep w x ∧ ewmaStep w x ≤ 0) := by
  have hm : (x.natAbs * w + 8) / 16 ≤ x.natAbs := by
    have : x.natAbs * w ≤ x.natAbs * 16 := Nat.mul_le_mul_left _ hw
    omega
  unfold ewmaStep
  simp only
  split <;> constructor <;> intro h <;> omega

/-- E stays in −32752..+32752 (R74, R75). -/
theorem newEwma_ok {w : Nat} (hw : w ≤ 16) (seed : Bool) {kept dev : Int} (hk : EwmaOk kept) (hd : DeviationOk dev) :
    EwmaOk (newEwma seed w kept dev) := by
  have hs := ewmaStep_between hw (dev * 16 - kept)
  unfold newEwma EwmaOk at *
  split <;> omega

theorem runOk_zero : RunOk .zero 0 := ⟨Nat.zero_le _, by decide⟩

/-- A run stays in 0..15, with sign 0 exactly at count 0 (R78). -/
theorem newRun_ok (kept : Sgn × Nat) (sign : Sgn) : RunOk (newRun kept sign).1 (newRun kept sign).2 := by
  unfold newRun RunOk Config.maxRun
  cases sign <;> simp only <;> (try split) <;> simp

theorem keptRun_ok {pv : PvState} (h : PvOk pv) (changed : Bool) :
    RunOk (keptRun changed pv).1 (keptRun changed pv).2 := by
  unfold keptRun
  cases changed with
  | true => exact runOk_zero
  | false => exact h.2.2

/-- The working values of a plotting value are in range (R71 to R80). -/
theorem pvWork_ok {chart : Chart} {pf : ProfileValues} (hw : pf.weight ≤ 16) (changed : Bool) (g : Group) (x : Channel)
    (h : PvOk (chart.pvs.pv g x)) {dev : Int} (hd : DeviationOk dev) : PvWorkOk (pvWork chart pf changed g x dev) := by
  unfold pvWork
  simp only
  split
  · exact ⟨hd, newEwma_ok hw _ h.2.1 hd, newRun_ok _ _⟩
  · exact ⟨hd, h.2.1, keptRun_ok h changed⟩

/-- An accepted reading is evaluated in range (R70 to R81). -/
theorem compute_ok {ins : Instrument} {chart : Chart} {rd : Reading} {day window : Nat} {lot : LotRecord} {pf : Profile}
    {today : Nat} (hc : ∀ g x, PvOk (chart.pvs.pv g x)) (hw : pf.values.weight ≤ 16) (hd : ReadingOk today rd)
    (hr : lot.revision ≤ 255) : EvaluationOk today (compute ins chart rd day window lot pf) where
  reading := hd
  revision := hr
  pvs := fun g x => by
    unfold compute
    simp only [PerPv.pv_tab]
    exact pvWork_ok hw _ g x (hc g x) (saturateDeviation_ok _)

/-! ## Classification -/

/-- The plotting values are listed in ascending number. -/
theorem allPvs_ascending : allPvs.Pairwise fun x y => pvNumber x.1 x.2 < pvNumber y.1 y.2 := by decide

theorem pvNumber_le (g : Group) (x : Channel) : pvNumber g x ≤ 11 := by cases g <;> cases x <;> decide

/-- A deviation list of an evaluation in range is in range (R46, R106, R108). -/
theorem deviationList_ok {ev : Evaluation} (h : ∀ g x, PvWorkOk (ev.pvs.pv g x)) (pick : Group → Channel → Bool) :
    DeviationListOk (deviationList ev pick) := by
  refine ⟨List.pairwise_map.2 (allPvs_ascending.filter _), fun x hx => ?_⟩
  obtain ⟨gc, _, rfl⟩ := List.mem_map.1 hx
  exact ⟨pvNumber_le _ _, (h gc.1 gc.2).1⟩

/-- The result of CLASSIFY is in range (R82, R94, R107). -/
theorem classifyWith_ok {table : List PatternEntry} {latched : BitVec 16} {ev : Evaluation}
    (ht : ∀ i, (entryAt table i).code ≤ 59) (h : ∀ g x, PvWorkOk (ev.pvs.pv g x)) :
    (classifyWith table latched ev).code ≤ 63 ∧ DeviationListOk (classifyWith table latched ev).deviations := by
  unfold classifyWith
  simp only
  split
  · refine ⟨(ht _).trans (by decide), ?_⟩
    simp only
    exact deviationList_ok h _
  · unfold fallback
    repeat' split
    all_goals refine ⟨by simp, ?_⟩
    all_goals simp only
    all_goals first
      | exact deviationList_ok h _
      | exact ⟨List.Pairwise.nil, fun _ hx => absurd hx List.not_mem_nil⟩

/-! ## The commit of a reading -/

theorem writtenPv_ok {w : PvWork} {kept : PvState} (hw : PvWorkOk w) (hk : PvOk kept) : PvOk (writtenPv w kept) := by
  unfold writtenPv
  split
  · exact ⟨fun d hd => by cases hd; exact hw.1, hw.2.1, hw.2.2⟩
  · exact ⟨hk.1, hk.2.1, hw.2.2⟩

/-- The chart that a commit writes is in range (R85 to R88, R90). -/
theorem ChartOk.write {d : Nat} {c : Chart} {ev : Evaluation} {res : Result} (h : ChartOk d c) (hc : c.state ≠ .off)
    (hd : d ≤ Config.max16) (he : EvaluationOk d ev) (hr : res.code ≤ 63 ∧ DeviationListOk res.deviations) :
    ChartOk d (writtenChart ev res c) where
  off := fun hs => by
    unfold writtenChart at hs
    simp only at hs
    split at hs
    · cases hs
    · exact absurd hs hc
  lot := he.reading.lot.2
  revision := he.revision
  enrolDay := h.enrolDay
  lastDay := fun l hl => by
    cases hl
    unfold laterDay
    split
    · exact he.reading.notFuture
    · rename_i l hl
      exact max_le (h.lastDay l hl) he.reading.notFuture
  missed := (Nat.min_le_left _ _).trans h.missed
  pvs := fun g x => by
    unfold writtenChart
    simp only [PerPv.pv_tab]
    exact writtenPv_ok (he.pvs g x) (h.pvs g x)
  lastResult := fun r hl => by
    cases hl
    exact ⟨he.reading.notFuture.trans hd, hr⟩
  parked := fun pk hp => by
    unfold writtenChart parkedAfter at hp
    simp only at hp
    split at hp
    · rename_i q hq
      split at hp
      · cases hp
      · rename_i hlt
        cases hp
        have hk := h.parked _ hq
        refine { hk with notStale := fun l hl => ?_ }
        cases hl
        unfold laterDay
        split
        · omega
        · rename_i l hl
          exact max_le (hk.notStale l hl) (by omega)
    · cases hp
  evaluated := satInc16_le h.evaluated
  stale := h.stale
  expired := by
    show (if lotExpired ev then _ else _) ≤ _
    split
    · exact satInc16_le h.expired
    · exact h.expired

/-! ## Offers in order -/

/-- The state after a commit's offers: each is offered on the state the one before has left (R89). -/
theorem makeOffers_state (offers : List Offer) (id : Nat) (owed : Bool) (s : State) :
    (makeOffers offers id owed s).2 = offers.foldl (fun t o => (offerOrOwe o t).2) s := by
  induction offers generalizing id owed s with
  | nil => rfl
  | cons o rest ih => exact ih _ _ _

end Sys2Proof.Machine
end

