-- ==== Sys2Proof/Laws/Line.lean ====
section
/-! SUPPORT. Laws of the line form: the receiver takes from the levels of LDI the octets that stand on the line, an
octet in error, and a link reset (R152, R161). -/

namespace Sys2Proof.Machine

theorem hearLine_append (p : Port) (xs ys : List Level) (w : LineWatch) (s : State) :
    hearLine p (xs ++ ys) w s = hearLine p ys (hearLine p xs w s).1 (hearLine p xs w s).2 := by
  induction xs generalizing w s with
  | nil => rfl
  | cons x rest ih => exact ih _ _

/-- The octet of the bits of an octet (R152). -/
theorem octetOfBits_range (o : Octet) : octetOfBits ((List.range 8).map o.getLsbD) = o := by
  apply BitVec.eq_of_getLsbD_eq
  intro i hi
  unfold octetOfBits
  rw [getLsbD_bitsOf]
  simp [hi]

/-- The receiver takes one octet from its ten periods (R152). -/
theorem hearLine_octetLevels (p : Port) (o : Octet) (s : State) :
    hearLine p (octetLevels o) .idle s = (.idle, receiveOctet p o s) := by
  have h : ([] ++ [o.getLsbD 0] ++ [o.getLsbD 1] ++ [o.getLsbD 2] ++ [o.getLsbD 3] ++ [o.getLsbD 4] ++ [o.getLsbD 5] ++
      [o.getLsbD 6] ++ [o.getLsbD 7] : List Bool) = (List.range 8).map o.getLsbD := rfl
  show (LineWatch.idle, onLineEvent p (some (.octet (octetOfBits ([] ++ [o.getLsbD 0] ++ [o.getLsbD 1] ++
    [o.getLsbD 2] ++ [o.getLsbD 3] ++ [o.getLsbD 4] ++ [o.getLsbD 5] ++ [o.getLsbD 6] ++ [o.getLsbD 7])))) s) = _
  rw [h, octetOfBits_range]
  rfl

/-- High periods between octets bring nothing (R152). -/
theorem hearLine_high (p : Port) (n : Nat) (s : State) : hearLine p (List.replicate n true) .idle s = (.idle, s) := by
  induction n with
  | zero => rfl
  | succ n ih => exact ih

/-- Octets on the line, each after any number of high periods, are received one after another (R152). -/
theorem hearLine_line (p : Port) (xs : List (Nat × Octet)) (s : State) :
    hearLine p (lineForm xs) .idle s = (.idle, receiveOctets p (xs.map (·.2)) s) := by
  induction xs generalizing s with
  | nil => rfl
  | cons x rest ih =>
    unfold lineForm at ih ⊢
    rw [List.flatMap_cons, List.append_assoc, hearLine_append, hearLine_high, hearLine_append, hearLine_octetLevels]
    exact ih _

/-! ## Where an octet stands on a line -/

@[simp] theorem length_octetLevels (o : Octet) : (octetLevels o).length = 10 := rfl

theorem lineForm_append (xs ys : List (Nat × Octet)) : lineForm (xs ++ ys) = lineForm xs ++ lineForm ys :=
  List.flatMap_append

/-- Each octet takes its pause and ten periods (R152). -/
theorem length_lineForm (xs : List (Nat × Octet)) : (lineForm xs).length = (xs.map (·.1)).sum + 10 * xs.length := by
  induction xs with
  | nil => rfl
  | cons x rest ih =>
    unfold lineForm at ih ⊢
    rw [List.flatMap_cons, List.length_append, ih]
    simp only [List.length_append, List.length_replicate, length_octetLevels, List.map_cons, List.sum_cons,
      List.length_cons]
    omega

/-- The ten periods of an octet stand after what is before it and its pause (R152). -/
theorem lineForm_octet (before after : List (Nat × Octet)) (x : Nat × Octet) {i : Nat} (hi : i < 10) :
    (lineForm (before ++ x :: after)).getD ((lineForm before).length + x.1 + i) true =
      (octetLevels x.2).getD i true := by
  have h : lineForm (before ++ x :: after) =
      (lineForm before ++ List.replicate x.1 true) ++ (octetLevels x.2 ++ lineForm after) := by
    rw [lineForm_append]
    simp [lineForm, List.append_assoc]
  have hl : (lineForm before ++ List.replicate x.1 true).length = (lineForm before).length + x.1 := by simp
  rw [h, List.getD_append_right _ _ _ _ (by omega), hl, Nat.add_sub_cancel_left,
    List.getD_append _ _ _ _ (by rw [length_octetLevels]; exact hi)]

/-- The pause before an octet is high (R152). -/
theorem lineForm_pause (before after : List (Nat × Octet)) (x : Nat × Octet) {i : Nat} (hi : i < x.1) :
    (lineForm (before ++ x :: after)).getD ((lineForm before).length + i) true = true := by
  have h : lineForm (before ++ x :: after) =
      lineForm before ++ (List.replicate x.1 true ++ (octetLevels x.2 ++ lineForm after)) := by
    rw [lineForm_append]
    simp [lineForm, List.append_assoc]
  rw [h, List.getD_append_right _ _ _ _ (by omega), Nat.add_sub_cancel_left,
    List.getD_append _ _ _ _ (by simpa using hi)]
  simp [List.getD_eq_getElem?_getD, hi]

end Sys2Proof.Machine
end

