-- ==== Sys2Proof/Laws/Parts.lean ====
section
/-! SUPPORT. Laws of the inner points: no step of an evaluation or of a visit reads or writes the operation in flight,
so a step that leaves the engine at a stage does what the step without it does; and a step to the next inner point
leaves the rest of the run as it was. -/

namespace Sys2Proof.Machine

/-! ## The operation in flight is neither read nor written -/

@[simp] theorem chart_set_engine (s : State) (e : Option Operation) (n : Nat) (pr : Process) :
    ({ s with engine := e } : State).chart n pr = s.chart n pr := rfl

@[simp] theorem table_set_engine (s : State) (e : Option Operation) (pr : Process) :
    ({ s with engine := e } : State).table pr = s.table pr := by cases pr <;> rfl

theorem takeOffer_engine (o : Offer) (s : State) (e : Option Operation) :
    takeOffer o { s with engine := e } = ((takeOffer o s).1, { (takeOffer o s).2 with engine := e }) := by
  unfold takeOffer
  dsimp only
  cases List.find? (sameSubject o) s.notices.entries with
  | some x => rfl
  | none =>
    dsimp only
    by_cases h : s.notices.entries.length < Config.noticeEntries
    · simp only [if_pos h]
      by_cases h2 : s.notices.entries.length + 1 = Config.noticeHigh
      · simp only [if_pos h2]; rfl
      · simp only [if_neg h2]; rfl
    · simp only [if_neg h]; rfl

theorem offerOrOwe_engine (o : Offer) (s : State) (e : Option Operation) :
    offerOrOwe o { s with engine := e } = ((offerOrOwe o s).1, { (offerOrOwe o s).2 with engine := e }) := by
  unfold offerOrOwe
  rw [takeOffer_engine]
  rcases takeOffer o s with ⟨_ | _ | _, t⟩ <;> rfl

theorem makeOffers_engine (l : List Offer) (id : Nat) (owed : Bool) (s : State) (e : Option Operation) :
    makeOffers l id owed { s with engine := e } =
      ((makeOffers l id owed s).1, { (makeOffers l id owed s).2 with engine := e }) := by
  induction l generalizing id owed s with
  | nil => rfl
  | cons o rest ih => simp only [makeOffers, offerOrOwe_engine]; exact ih ..

theorem moveLot_engine (pr : Process) (old new : Nat) (s : State) (e : Option Operation) :
    moveLot pr old new { s with engine := e } = (moveLot pr old new s).map fun t => { t with engine := e } := by
  unfold moveLot
  split
  · rename_i h
    rw [if_pos (show lotActive s pr new = true from h), Option.map_some]
    split
    · rfl
    · unfold countUp countDown
      split <;> (cases pr <;> rfl)
  · rename_i h
    rw [if_neg (show ¬ lotActive s pr new = true from h)]; rfl

theorem commitWrite_engine (ev : Evaluation) (res : Result) (s : State) (e : Option Operation) :
    commitWrite ev res { s with engine := e } =
      (commitWrite ev res s).map fun x => (x.1, { x.2 with engine := e }) := by
  have h :=
    moveLot_engine ev.reading.process (s.chart ev.reading.store ev.reading.process).currentLot ev.reading.lot s e
  unfold commitWrite
  simp only [chart_set_engine]
  rw [h]
  cases moveLot ev.reading.process (s.chart ev.reading.store ev.reading.process).currentLot ev.reading.lot s <;> rfl

theorem finishHeld_engine (rd : Reading) (s : State) (e : Option Operation) :
    finishHeld rd { s with engine := e } = ((finishHeld rd s).1, { (finishHeld rd s).2 with engine := e }) := by
  unfold finishHeld offerHeld
  rw [offerOrOwe_engine]

theorem finishOffers_engine (ev : Evaluation) (res : Result) (l : List Offer) (id : Nat) (owed : Bool) (s : State)
    (e : Option Operation) : finishOffers ev res l id owed { s with engine := e } =
      ((finishOffers ev res l id owed s).1, { (finishOffers ev res l id owed s).2 with engine := e }) := by
  unfold finishOffers
  rw [makeOffers_engine]

theorem runCommit_engine (ev : Evaluation) (res : Result) (s : State) (e : Option Operation) :
    runCommit ev res { s with engine := e } =
      ((runCommit ev res s).1, { (runCommit ev res s).2 with engine := e }) := by
  unfold runCommit
  rw [commitWrite_engine]
  cases commitWrite ev res s with
  | none => exact finishHeld_engine ev.reading (fillSlot ev.reading s) e
  | some x => exact finishOffers_engine ev res x.1 0 false x.2 e

/-- An evaluation leaves the operation in flight as it is. -/
theorem runEval_engine (st : EvalStage) (s : State) (e : Option Operation) :
    runEval st { s with engine := e } = ((runEval st s).1, { (runEval st s).2 with engine := e }) := by
  cases st with
  | computed ev => exact runCommit_engine ev (classifyNow ev s) s e
  | classified ev res => exact runCommit_engine ev res s e
  | offering ev res l id owed => exact finishOffers_engine ev res l id owed s e
  | parking rd => exact finishHeld_engine rd s e
  | ending rep => rfl

/-! ## A step to the next inner point, then the rest -/

theorem runEval_offersLeft (ev : Evaluation) (res : Result) (l : List Offer) (id : Nat) (owed : Bool) (s : State) :
    runEval (offersLeft ev res l id owed) s = finishOffers ev res l id owed s := by
  cases l <;> rfl

/-- What an evaluation comes to does not depend on the inner points it is taken through (R63). -/
theorem runEval_evalPart (st : EvalStage) (s : State) : runEval (evalPart st s).1 (evalPart st s).2 = runEval st s := by
  cases st with
  | computed ev => rfl
  | classified ev res =>
    unfold evalPart runEval runCommit
    dsimp only
    cases commitWrite ev res s with
    | none => rfl
    | some x => exact runEval_offersLeft ev res x.1 0 false x.2
  | offering ev res l id owed =>
    cases l with
    | nil => rfl
    | cons o rest => exact runEval_offersLeft ev res rest _ _ _
  | parking rd => rfl
  | ending rep => rfl

/-! ## The steps of a visit -/

theorem owedStep_engine (n : Nat) (pr : Process) (cls : NoticeClass) (s : State) (e : Option Operation) :
    owedStep n pr cls { s with engine := e } = { owedStep n pr cls s with engine := e } := by
  by_cases h : (s.chart n pr).owed.get cls = true
  · have h' : (({ s with engine := e } : State).chart n pr).owed.get cls = true := h
    unfold owedStep
    simp only
    rw [if_pos h', if_pos h]
    show (match rebuiltOffer n pr s.calendar.closingDay (s.chart n pr) cls with | none => _ | some o => _) = _
    cases rebuiltOffer n pr s.calendar.closingDay (s.chart n pr) cls with
    | none => rfl
    | some o =>
      simp only
      rw [takeOffer_engine]
      rcases takeOffer o s with ⟨_ | _ | _, t⟩ <;> rfl
  · have h' : ¬ (({ s with engine := e } : State).chart n pr).owed.get cls = true := h
    unfold owedStep
    simp only
    rw [if_neg h', if_neg h]

theorem finishOwed_engine (n : Nat) (pr : Process) (cls : NoticeClass) (s : State) (e : Option Operation) :
    finishOwed n pr cls { s with engine := e } = { finishOwed n pr cls s with engine := e } := by
  cases cls <;> simp only [finishOwed, owedStep_engine]

theorem offerOverdue_engine (n : Nat) (pr : Process) (missed : Nat) (s : State) (e : Option Operation) :
    offerOverdue n pr missed { s with engine := e } = { offerOverdue n pr missed s with engine := e } := by
  unfold offerOverdue
  rw [offerOrOwe_engine]

theorem countMiss_engine (n : Nat) (pr : Process) (s : State) (e : Option Operation) :
    countMiss n pr { s with engine := e } = ((countMiss n pr s).1, { (countMiss n pr s).2 with engine := e }) := by
  unfold countMiss
  simp only [chart_set_engine, table_set_engine]
  split <;> rfl

theorem missStep_engine (n : Nat) (pr : Process) (s : State) (e : Option Operation) :
    missStep n pr { s with engine := e } = { missStep n pr s with engine := e } := by
  unfold missStep
  rw [countMiss_engine]
  rcases countMiss n pr s with ⟨_ | m, t⟩
  · rfl
  · exact offerOverdue_engine n pr m t e

theorem finishMiss_engine (n : Nat) (pr : Process) (s : State) (e : Option Operation) :
    finishMiss n pr { s with engine := e } = { finishMiss n pr s with engine := e } := by
  unfold finishMiss
  rw [missStep_engine, finishOwed_engine]

theorem recheck_engine (rd : Reading) (lot : LotRecord) (profile : Profile) (s : State) (e : Option Operation) :
    recheck rd lot profile { s with engine := e } =
      ((recheck rd lot profile s).1, { (recheck rd lot profile s).2 with engine := e }) := by
  unfold recheck
  simp only
  split <;> rfl

theorem retryStart_engine (n : Nat) (pr : Process) (pk : Parked) (s : State) (e : Option Operation) :
    retryStart n pr pk { s with engine := e } =
      ((retryStart n pr pk s).1, { (retryStart n pr pk s).2 with engine := e }) := by
  unfold retryStart
  simp only [table_set_engine]
  cases findLot (s.table pr).lots pk.lot with
  | none => rfl
  | some lot => exact recheck_engine _ lot _ s e

theorem visitFrom_engine (n : Nat) (pr : Process) (x : Option Evaluation × State) (e : Option Operation) :
    visitFrom n pr (x.1, { x.2 with engine := e }) = { visitFrom n pr x with engine := e } := by
  rcases x with ⟨_ | ev, s⟩
  · exact finishMiss_engine n pr s e
  · unfold visitFrom finishRetry
    simp only
    rw [runEval_engine]
    exact finishMiss_engine n pr _ e

theorem visitChart_engine (n : Nat) (pr : Process) (s : State) (e : Option Operation) :
    visitChart n pr { s with engine := e } = { visitChart n pr s with engine := e } := by
  unfold visitChart
  rw [chart_set_engine]
  simp only
  split
  · rfl
  · cases (s.chart n pr).parked with
    | none => exact finishMiss_engine n pr s e
    | some pk => simp only; rw [retryStart_engine]; exact visitFrom_engine n pr _ e

/-- A visit leaves the operation in flight as it is. -/
theorem finishVisit_engine (n : Nat) (pr : Process) (st : VisitStage) (s : State) (e : Option Operation) :
    finishVisit n pr st { s with engine := e } = { finishVisit n pr st s with engine := e } := by
  cases st with
  | arrive => exact visitChart_engine n pr s e
  | snapped rd lot profile => unfold finishVisit; simp only; rw [recheck_engine]; exact visitFrom_engine n pr _ e
  | retry st => unfold finishVisit finishRetry; simp only; rw [runEval_engine]; exact finishMiss_engine n pr _ e
  | miss => exact finishMiss_engine n pr s e
  | overdue missed => unfold finishVisit; simp only; rw [offerOverdue_engine]; exact finishOwed_engine n pr _ _ e
  | owed cls => exact finishOwed_engine n pr cls s e

/-- What a visit comes to does not depend on the inner points it is taken through (R132). -/
theorem finishVisit_visitPart (n : Nat) (pr : Process) (st : VisitStage) (s : State) :
    (match visitPart n pr st s with
      | (some st', s') => finishVisit n pr st' s'
      | (none, s') => s') = finishVisit n pr st s := by
  cases st with
  | arrive =>
    show _ = visitChart n pr s
    unfold visitPart visitChart
    simp only
    by_cases h : (s.chart n pr).state = .off ∨ (s.chart n pr).state = .suspended
    · rw [if_pos h, if_pos h]
    · rw [if_neg h, if_neg h]
      cases (s.chart n pr).parked with
      | none => rfl
      | some pk =>
        simp only
        unfold retryStart
        cases findLot (s.table pr).lots pk.lot <;> rfl
  | snapped rd lot profile =>
    show _ = visitFrom n pr (recheck rd lot profile s)
    unfold visitPart
    simp only
    rcases recheck rd lot profile s with ⟨_ | _, t⟩ <;> rfl
  | retry st =>
    show _ = finishMiss n pr (runEval st s).2
    rw [← runEval_evalPart st s]
    unfold visitPart retryPart
    simp only
    rcases evalPart st s with ⟨_ | _ | _ | _ | _, t⟩ <;> rfl
  | miss =>
    show _ = finishOwed n pr .condition (missStep n pr s)
    unfold visitPart missStep
    simp only
    rcases countMiss n pr s with ⟨_ | _, t⟩ <;> rfl
  | overdue missed => rfl
  | owed cls => cases cls <;> rfl

end Sys2Proof.Machine
end

