-- ==== Sys2Proof/Tests/Slice0.lean ====
section
/-! SUPPORT. Tests: ill-formed commands are refused; figures that the spec works out; and, for every statement with
hypotheses, states and operands that meet them, clause by clause (`witness_<statement>`). -/

namespace Sys2Proof.Tests

open Sys2Proof Sys2Proof.Machine

/-! ## WellFormed -/

theorem test_end_inside_a_frame_is_ill_formed :
    (Instr.frameReceived .a [0x00, 0xD5]).wellFormed = false := by decide

theorem test_frame_of_the_manual_is_well_formed :
    (Instr.frameReceived .a (escapeContent (frameContent 0 2 0x3D []))).wellFormed = true := by decide

theorem test_no_table_word_spells_a_command : decodeTableWord 32 0 = none := rfl

/-! ## Frames (R154, R155, R170) -/

theorem test_sixteen_headers :
    ((List.range 16).map fun i => headerOctet (BitVec.ofNat 4 i)) =
      [0x00, 0xB1, 0xD2, 0x63, 0xE4, 0x55, 0x36, 0x87, 0x78, 0xC9, 0xAA, 0x1B, 0x9C, 0x2D, 0x4E, 0xFF] := by decide

theorem test_header_one_bit : decodeHeader 0xD6 = .taken 0xD2 true := by decide

theorem test_header_two_bits : decodeHeader 0xD7 = .twoBits := by decide

/-- The figures of section 9.11.2. -/
theorem test_check_sums_of_the_manual : checkOctets [0x10, 0x20, 0x30] = [160, 96] := by decide

theorem test_escapes : escapeContent [0xD2, 0xD3, 0xD4, 0xD5] = [0xD2, 0xD4, 0x93, 0xD4, 0x94, 0xD4, 0x95] := by decide

theorem test_codes_are_distinct : allCodes.all (fun k => codeOfOctet (codeOctet k) == some k) = true := by decide

theorem test_ten_codes_are_engine_work : (allCodes.filter isEngineWork).length = 10 ∧ allCodes.length = 32 := by decide

/-! ## Arithmetic (R7, R12, R75, R113) -/

theorem test_conversions :
    convertCode 4095 120 = 117 ∧ convertCode 255 200 = 3137 ∧ convertCode 1023 200 = 782 ∧ convertCode 4095 200 = 195 :=
  by decide

theorem test_normalization_ends :
    normalizeItem 255 0 300 = (4000, true) ∧ normalizeItem 4095 (-3) 2 = (0, true) ∧
      normalizeItem 4095 0 4095 = (4000, false) := by decide

theorem test_deviation_saturates : saturateDeviation 4500 = 2047 ∧ saturateDeviation (-8500) = -2047 := by decide

theorem test_ewma_steps :
    ewmaStep 4 122 = 31 ∧ ewmaStep 4 (-6) = -2 ∧ ewmaStep 4 (-102) = -26 ∧ ewmaStep 2 3 = 0 ∧ ewmaStep 16 (-40) = -40 :=
  by decide

/-- The EWMA table of section 4.8.3, w = 4. -/
theorem test_worked_ewma :
    ([(6, 64), (4, 40), (3, 20), (17, 150), (11, 120), (-1, -10), (-26, -200), (-8, -60), (-12, -90), (-16, -100),
      (-10, -50)].map fun x : Int × Int => newEwma false 4 x.2 x.1) =
      [72, 46, 27, 181, 134, -12, -254, -77, -116, -139, -78] := by decide

/-- The run table of section 4.8.3. -/
theorem test_worked_runs :
    newRun (.pos, 3) (readingSign 6 17) = (.pos, 4) ∧ newRun (.neg, 4) (readingSign 8 (-26)) = (.neg, 5) ∧
      newRun (.pos, 1) (readingSign 4 4) = (.zero, 0) := by decide

theorem test_run_breaks_at_the_band : newRun (.pos, 4) (readingSign 6 6) = (.zero, 0) ∧
    newRun (.pos, 15) (readingSign 6 7) = (.pos, 15) ∧ newRun (.neg, 3) (readingSign 6 7) = (.pos, 1) := by decide

theorem test_ids_wrap :
    freeId [] 64 4416 = 4416 ∧ freeId [65534, 65535, 1] 64 65534 = 2 ∧ nextId 65535 = 1 := by decide

/-! ## Helpers -/

def allRights : Rights := ⟨true, true, true, true⟩

/-- The part after a release with every strap high. -/
def ready : State :=
  { State.reset with
    resetHeld := false
    ports := ⟨releasePort allRights PortState.reset, releasePort allRights PortState.reset,
      releasePort allRights PortState.reset⟩ }

/-- One request waiting at the head of port A. -/
def withHead (code : RequestCode) (body : List Octet) (s : State) : State :=
  s.modPort .a fun ps => { ps with places := [⟨⟨0, code, body⟩, .waiting⟩] }

/-- A granted request of port A. -/
def callerOf (code : RequestCode) (body : List Octet) : Caller := ⟨.a, ⟨0, code, body⟩, .big, false⟩

def withGrant (code : RequestCode) (body : List Octet) (s : State) : State :=
  { s with engine := some (.granted (callerOf code body)), arbiter := ⟨.port .a, some (.port .a), 1⟩ }

def withReceiver (x : Receiver) (s : State) : State := s.modPort .a fun ps => { ps with receiver := x }

def inFrame (s : State) : State := withReceiver (.inFrame ⟨[], 0, false⟩) s

theorem atHead_withHead (code : RequestCode) (body : List Octet) {s : State} (h : s.engine = none) :
    AtHead (withHead code body s) .a code ⟨0, code, body⟩ := by
  have he : engineServes (withHead code body s) .a = false := by
    unfold engineServes withHead
    rw [engine_modPort, h]
  refine ⟨?_, rfl⟩
  unfold waitingHead
  rw [he]
  rfl

theorem granted_withGrant (code : RequestCode) (body : List Octet) (s : State) :
    Granted (withGrant code body s) code (callerOf code body) := ⟨rfl, rfl⟩

def sampleLot (n count : Nat) : LotRecord where
  number := n
  revision := 255
  values := ⟨⟨⟨100, 100, 100⟩, ⟨600, 600, 600⟩, ⟨1200, 1200, 1200⟩, ⟨2000, 2000, 2000⟩⟩,
    PerPv.tab fun _ _ => 0, some 20⟩
  storeCount := count

def sampleStaged (n : Nat) : StagedLot := ⟨.f, n, (sampleLot n 0).values⟩

def sampleChart (st : ChartState) : Chart :=
  { Chart.off with state := st, currentLot := 9, lastDay := some 3, seedPending := true }

/-- Lot 9 active in F with two charts; store 7 holds a film chart, on day 5. -/
def running (st : ChartState) : State :=
  { ready with
    refs := { RefTable.reset with film := ⟨[sampleLot 9 1], RefTable.reset.film.profile⟩ }
    stores := [(7, { StoreEntry.reset with film := sampleChart st })]
    calendar := ⟨5, 3, .idle, 0, 0, 1⟩ }

def readingBody (store : Octet) (process lot day : Octet) : List Octet :=
  [0, store, process, 0, lot, 0, day] ++ List.replicate 24 0

def sampleReading (lot day : Nat) : Reading := ⟨7, .f, lot, day, PerItem.tab fun _ _ => 500⟩

def sampleEvaluation (lot : Nat) : Evaluation :=
  compute Instrument.reset (sampleChart .active) (sampleReading lot 4) 5 3 (sampleLot lot 1) RefTable.reset.film.profile

def sampleResult : Result := ⟨0, .info, 0, [], 0⟩

def sampleNotice (n : Nat) : Notice :=
  ⟨n, .condition, .drift, n, .f, 1, 1, 255, .watch, 61, 61, 0, [], none, none⟩

def withNotices (entries : List Notice) (s : State) : State := { s with notices := ⟨entries, 65535⟩ }

/-! ## Witnesses: steps, resets, the receiver -/

theorem witness_StepTakesFrontCommand :
    ({ ready with pending := [.classify, .deviceReset] } : State).pending = .classify :: [.deviceReset] := rfl

theorem witness_EveryCommandCompletes : ready.pending = [] := rfl

theorem witness_ResetReleaseLatchesStraps : State.reset.resetHeld = true ∧ ready.resetHeld = false := ⟨rfl, rfl⟩

theorem witness_LinkResetClearsThePort :
    ready.resetHeld = false ∧ (ready.port .a).receiver ≠ .waitHigh true ∧
      ready.engine.bind Operation.port? ≠ some .a ∧
      (withGrant .readChart [0, 0, 0] ready).engine.bind Operation.port? = some .a ∧
      ((withReceiver (.waitHigh true) ready).port .a).receiver = .waitHigh true := by decide

theorem witness_ReceiverFollowsTheLine :
    (ready.port .a).receiver = .looking ∧ ((inFrame ready).port .a).receiver = .inFrame ⟨[], 0, false⟩ ∧
      ((withReceiver (.waitHigh false) ready).port .a).receiver = .waitHigh false ∧ ready.resetHeld = false := by decide

/-! ## Witnesses: frames -/

theorem witness_EscapedContentIsRecovered : ((inFrame ready).port .a).receiver = .inFrame ⟨[], 0, false⟩ := rfl

def sentFrame : PortState := { PortState.reset with sending := some ⟨.reply, [0xD3, 0x36]⟩ }

/-- The line form on numerals: START; bit 2 of the second octet of a frame sent without pauses; and a pause of one
period before it. -/
theorem test_line_form :
    octetLevels 0xD3 = [false, true, true, false, false, true, false, true, true, true] ∧
      sentFrame.sending = some ⟨.reply, [0xD3, 0x36]⟩ ∧ ldoLevel (fun _ => 0) sentFrame 13 = true ∧
      ldoLevel (fun k => k) sentFrame 10 = true ∧ ldoLevel (fun k => k) sentFrame 11 = false ∧
      ((hearLine .a (lineForm [(0, 0xD3), (2, 0x11)] ++ List.replicate 32 false) .idle ready).2.port .a).receiver =
        .waitHigh true ∧
      ((hearLine .a (lineForm [(0, 0xD3), (2, 0x11)] ++ List.replicate 31 false) .idle ready).2.port .a).drops = 1 := by
  decide +kernel

theorem witness_RequestFrameIsAccepted :
    (inFrame ready).resetHeld = false ∧ hasRight ((inFrame ready).port .a).rights .restoreChart = true ∧
      admitsLength .restoreChart (List.replicate 168 (0 : Octet)).length = true ∧
      admitsLength .restoreChart (List.replicate 132 (0 : Octet)).length = true ∧
      ((inFrame ready).port .a).places.length < 4 := by decide +kernel

def fullPort (s : State) : State :=
  s.modPort .a fun ps => { ps with places := List.replicate 4 ⟨⟨0, .identify, []⟩, .waiting⟩ }

def fourRefusals (s : State) : State :=
  s.modPort .a fun ps => { ps with refusals := List.replicate 4 ⟨0, 0x3D, [0x10]⟩ }

def noRights (s : State) : State := s.modPort .a fun ps => { ps with rights := Rights.none }

theorem witness_RequestFrameIsRefused :
    codeOfOctet 0xFF = none ∧ codeOfOctet 0x30 = some .closeDay ∧
      hasRight ((noRights (inFrame ready)).port .a).rights .closeDay = false ∧
      hasRight ((inFrame ready).port .a).rights .closeDay = true ∧
      admitsLength .closeDay (List.replicate 634 (0 : Octet)).length = false ∧
      admitsLength .closeDay ([] : List Octet).length = true ∧
      4 ≤ ((fullPort (inFrame ready)).port .a).places.length ∧
      ((inFrame ready).port .a).refusals.length < 4 ∧
      4 ≤ ((fourRefusals (inFrame ready)).port .a).refusals.length ∧
      ((fourRefusals (inFrame ready)).port .a).receiver = .inFrame ⟨[], 0, false⟩ := by decide +kernel

theorem witness_BadFrameIsDropped :
    (List.replicate 5 (0 : Octet)).length < 6 ∧ decodeHeader (([0xD7] : List Octet).headD 0) = .twoBits ∧
      decodeHeader 0 = .taken 0 false ∧ 640 < (List.replicate 641 (0 : Octet)).length ∧
      ([0, 1, 0, 0, 9, 9] : List Octet).drop 4 ≠ checkOctets [0, 1, 0, 0] ∧
      256 * (0 : Octet).toNat + (1 : Octet).toNat + 6 ≠ ([0, 1, 0, 1, 9, 9] : List Octet).length ∧
      decodeHeader 0xE4 = .taken 0xE4 false ∧ headerType 0xE4 = 1 ∧ headerType 0x9C = 3 := by decide +kernel

theorem witness_HeaderCodeCorrectsOneBit : (0 : Fin 8) ≠ 7 := by decide

theorem witness_CorrectedHeaderFrameIsTaken : (List.replicate 634 (0 : Octet)).length ≤ 634 ∧
    (inFrame ready).resetHeld = false := by decide +kernel

theorem witness_AbortAnswersWaitingRequests :
    ((withHead .identify [] (inFrame ready)).port .a).receiver = .inFrame ⟨[], 0, false⟩ ∧
      (withHead .identify [] (inFrame ready)).resetHeld = false ∧ ([] : List Octet).length ≤ 634 := by decide

def sampleReply : ReplyFrame := ⟨0, 0x3D, [0x11]⟩

def sendingState (x : FrameSource) : State :=
  ready.modPort .a fun ps =>
    { ps with
      sending := some ⟨x, []⟩, refusals := [sampleReply]
      places := [⟨⟨0, .identify, []⟩, .answered sampleReply⟩] }

theorem witness_SentFrameMakesRoomForTheNext :
    ((sendingState .refusal).port .a).sending = some ⟨.refusal, []⟩ ∧
      ((sendingState .reply).port .a).sending = some ⟨.reply, []⟩ ∧ (ready.port .a).sending = none ∧
      (fourRefusals ready).resetHeld = false ∧
      ((fourRefusals ready).port .a).refusals = ⟨0, 0x3D, [0x10]⟩ :: List.replicate 3 ⟨0, 0x3D, [0x10]⟩ ∧
      ((sendingState .reply).port .a).places = ⟨⟨0, .identify, []⟩, .answered sampleReply⟩ :: [] ∧
      (ready.port .a).refusals = [] ∧ headReply (ready.port .a).places = none := by decide

/-! ## Witnesses: queues and the arbiter -/

theorem witness_AnswersTouchOnlyQueues : Port.b ≠ Port.a := by decide

def sweepingState : State := { ready with calendar := ⟨6, 3, .sweeping, 5, 1016, 0⟩ }

theorem witness_EmptyEngineIsGranted :
    (withGrant .readChart [0, 0, 0] ready).engine = some (.granted (callerOf .readChart [0, 0, 0])) ∧
      ready.engine = none ∧ (rotationFrom ready.arbiter.pointer).all (fun q => !present ready q) = true ∧
      present (withHead .readChart [0, 0, 0] ready) (.port .a) = true ∧
      (rotationFrom ready.arbiter.pointer)[0]? = some (.port .a) ∧
      (rotationFrom ready.arbiter.pointer)[3]? = some .sweep ∧ present sweepingState .sweep = true ∧
      ([.port .a, .port .b, .port .c] : List Requester).all (fun q => !present sweepingState q) = true := by decide

/-- A port with one request in flight and another behind it. -/
def burstState (behind : RequestCode) (burst : Nat) : State :=
  { ready.modPort .a fun ps =>
      { ps with places := [⟨⟨0, .readChart, []⟩, .inFlight⟩, ⟨⟨1, behind, []⟩, .waiting⟩] } with
    engine := some (.granted (callerOf .readChart [])), arbiter := ⟨.port .a, some (.port .a), burst⟩ }

theorem witness_AnsweredRequestLeavesQueue :
    waitingHead (withHead .identify [] ready) .a = some ⟨0, .identify, []⟩ ∧
      (callerOf .readChart []).discardReply = false ∧
      queueHead ((burstState .readChart 1).port (callerOf .readChart []).port).places =
        some ⟨(callerOf .readChart []).request, .inFlight⟩ := ⟨(atHead_withHead _ _ rfl).1, by decide⟩

/-- A place to answer, behind one that is answered. -/
theorem witness_AnsweredRequestLeavesQueue_places :
    ({ PortState.reset with
        places := [⟨⟨0, .identify, []⟩, .answered sampleReply⟩, ⟨⟨1, .readChart, []⟩, .inFlight⟩] } : PortState).places =
        [⟨⟨0, .identify, []⟩, .answered sampleReply⟩] ++ ⟨⟨1, .readChart, []⟩, .inFlight⟩ :: [] ∧
      Place.isAnswered ⟨⟨0, .identify, []⟩, .answered sampleReply⟩ = true ∧
      Place.isAnswered ⟨⟨1, .readChart, []⟩, .inFlight⟩ = false := ⟨rfl, rfl, rfl⟩

def afterEnd (s : State) : State :=
  ({ s with engine := none } : State).modPort .a (answerPlaces ⟨0, .readChart, []⟩ (.bare .ok))

theorem witness_BurstIsDecidedAtTheEnd :
    (waitingHead (afterEnd (burstState .readChart 1)) .a).isSome = true ∧ isEngineWork .readChart = true ∧
      (burstState .readChart 1).arbiter.burst < ((burstState .readChart 1).port .a).quota ∧
      ((burstState .readChart 2).port .a).quota ≤ (burstState .readChart 2).arbiter.burst ∧
      waitingHead (afterEnd (burstState .identify 1)) .a = some ⟨1, .identify, []⟩ ∧
      isEngineWork .identify = false ∧ waitingHead (afterEnd ready) .a = none := by decide

/-! ## Witnesses: reference data

Each gives a request at the head of port A by `atHead_withHead` and shows the clauses' other premises on its body. -/

theorem witness_StageLotKeepsTheClampedRecord :
    AtHead (withHead .stageLot [0, 0, 9] ready) .a .stageLot ⟨0, .stageLot, [0, 0, 9]⟩ ∧ 1 < u8 [2] 0 ∧
      u16 .big [0, 0, 0] 1 = 0 ∧ u8 [0, 0, 9] 0 = processNumber .f ∧ u16 .big [0, 0, 1] 1 ≠ 0 ∧
      u16 .big [1, 0xFF, 0xFF] 1 = 65535 := ⟨atHead_withHead _ _ rfl, by decide⟩

def promoting (staged : Option StagedLot) (lots : List LotRecord) (expected : Octet) : State :=
  withHead .promoteLot [expected]
    { ready.modPort .a fun ps => { ps with stagingLot := staged } with
      refs := { RefTable.reset with film := ⟨lots, RefTable.reset.film.profile⟩ } }

theorem witness_PromoteLotReplacesTheRecord :
    AtHead (promoting (some (sampleStaged 9)) [] 0) .a .promoteLot ⟨0, .promoteLot, [0]⟩ ∧
      inconsistentChannel (sampleStaged 9).values = none ∧
      (findLot [] 9 = none ∧ u8 [0] 0 = 0 ∧ ([] : List LotRecord).length < 16) ∧
      findLot [sampleLot 9 3] 9 = some (sampleLot 9 3) ∧ u8 [255] 0 ≠ 0 ∧ u8 [255] 0 = (sampleLot 9 3).revision :=
  ⟨atHead_withHead _ _ rfl, by decide⟩

def crossed (c : Channel) : LotValues :=
  { (sampleLot 9 0).values with
    densities := PerItem.tab fun p ch => if p = .low ∧ ch = c then 99 else (sampleLot 9 0).values.densities.item p ch }

theorem witness_PromoteLotRefusals :
    AtHead (promoting none [] 0) .a .promoteLot ⟨0, .promoteLot, [0]⟩ ∧
      inconsistentChannel (crossed .r) = some .r ∧ inconsistentChannel (crossed .g) = some .g ∧
      inconsistentChannel (crossed .b) = some .b ∧ inconsistentChannel (sampleLot 9 0).values = none ∧
      findLot [] 9 = none ∧ u8 [1] 0 ≠ 0 ∧ findLot [sampleLot 9 0] 9 = some (sampleLot 9 0) ∧ u8 [0] 0 = 0 ∧
      u8 [254] 0 ≠ (sampleLot 9 0).revision ∧ 16 ≤ ((List.range 16).map fun i => sampleLot (i + 20) 0).length :=
  ⟨atHead_withHead _ _ rfl, by decide⟩

theorem witness_RetireLotRemovesAnUnusedLot :
    AtHead (withHead .retireLot [0, 0, 9] (running .active)) .a .retireLot ⟨0, .retireLot, [0, 0, 9]⟩ ∧
      1 < u8 [2, 0, 9] 0 ∧ u16 .big [0, 0, 0] 1 = 0 ∧ u16 .big [0, 0, 9] 1 = 9 ∧ findLot [sampleLot 9 1] 8 = none ∧
      findLot [sampleLot 9 1] 9 = some (sampleLot 9 1) ∧ 0 < (sampleLot 9 1).storeCount ∧
      (sampleLot 9 0).storeCount = 0 := ⟨atHead_withHead _ _ rfl, by decide⟩

theorem witness_ReferenceReadsChangeNothing :
    AtHead (withHead .readLot [0, 0, 0, 9] ready) .a .readLot ⟨0, .readLot, [0, 0, 0, 9]⟩ ∧
      AtHead (withHead .listLots [1] ready) .a .listLots ⟨0, .listLots, [1]⟩ ∧
      AtHead (withHead .readProfile [0, 1] ready) .a .readProfile ⟨0, .readProfile, [0, 1]⟩ ∧
      1 < u8 [0, 2, 0, 9] 1 ∧ u16 .big [0, 0, 0, 0] 2 = 0 ∧ u8 [0, 1, 0, 9] 1 = processNumber .p ∧ u8 [1, 0] 0 = 1 ∧
      (ready.port .a).stagingLot = none ∧ 1 < u8 [2, 0] 0 :=
  ⟨atHead_withHead _ _ rfl, atHead_withHead _ _ rfl, atHead_withHead _ _ rfl, by decide⟩

theorem witness_StageProfileKeepsTheClampedRecord :
    AtHead (withHead .stageProfile [1] ready) .a .stageProfile ⟨0, .stageProfile, [1]⟩ ∧ 1 < u8 [2] 0 ∧
      u8 [1] 0 = processNumber .p ∧ u8 [0] 0 = processNumber .f := ⟨atHead_withHead _ _ rfl, by decide⟩

def stagedProfile (v : ProfileValues) (expected : Octet) : State :=
  withHead .promoteProfile [expected] (ready.modPort .a fun ps => { ps with stagingProfile := some ⟨.f, v⟩ })

/-- The default limits with CL one above AL in one group. -/
def wideLimits (g : Group) : Groups Limits :=
  Groups.tab fun x => if x = g then { Limits.default.get x with cl := (Limits.default.get x).al + 1 }
    else Limits.default.get x

theorem witness_PromoteProfileInOrder :
    AtHead (stagedProfile RefTable.reset.film.profile.values 0) .a .promoteProfile ⟨0, .promoteProfile, [0]⟩ ∧
      (ready.port .a).stagingProfile = none ∧
      (wideLimits .base).base.al < (wideLimits .base).base.cl ∧
      ((wideLimits .speed).base.cl ≤ (wideLimits .speed).base.al ∧
        (wideLimits .speed).speed.al < (wideLimits .speed).speed.cl) ∧
      (wideLimits .contrast).contrast.al < (wideLimits .contrast).contrast.cl ∧
      (wideLimits .top).top.al < (wideLimits .top).top.cl ∧
      (∀ g ∈ allGroups, (Limits.default.get g).cl ≤ (Limits.default.get g).al) ∧
      u8 [0] 0 = RefTable.reset.film.profile.revision ∧ u8 [1] 0 ≠ RefTable.reset.film.profile.revision :=
  ⟨atHead_withHead _ _ rfl, by decide⟩

/-! ## Witnesses: patterns, notices, calendar, ports -/

theorem witness_WritePatternReplacesTheEntry :
    AtHead (withHead .writePattern [15] ready) .a .writePattern ⟨0, .writePattern, [15]⟩ ∧ 15 < u8 [16] 0 ∧
      u8 [15] 0 = (15 : Fin 16).val ∧ 3 < u8 (List.replicate 20 0 ++ [4]) 20 ∧
      u8 (List.replicate 20 0 ++ [3]) 20 ≤ 3 ∧ ¬ u8 (List.replicate 23 4) 4 ≤ 3 ∧ ¬ u8 (List.replicate 23 2) 16 ≤ 1 ∧
      (∀ i < 12, u8 (List.replicate 23 1) (4 + i) ≤ 3) ∧ ∀ i < 4, u8 (List.replicate 23 1) (16 + i) ≤ 1 :=
  ⟨atHead_withHead _ _ rfl, by decide⟩

theorem witness_OtherReadsChangeNothing :
    AtHead (withHead .readPattern [15] ready) .a .readPattern ⟨0, .readPattern, [15]⟩ ∧
      AtHead (withHead .readCalendar [] ready) .a .readCalendar ⟨0, .readCalendar, []⟩ ∧
      AtHead (withHead .identify [] ready) .a .identify ⟨0, .identify, []⟩ ∧ 15 < u8 [16] 0 ∧
      u8 [15] 0 = (15 : Fin 16).val :=
  ⟨atHead_withHead _ _ rfl, atHead_withHead _ _ rfl, atHead_withHead _ _ rfl, by decide⟩

def sampleOffer : Offer := ⟨1, .f, .condition, .drift, 5, .adjust, 60, 0, [(3, 17)], none, none⟩

def manyNotices (n : Nat) : List Notice := (List.range n).map fun i => sampleNotice (i + 2)

theorem witness_OfferIsMergedInsertedOrRefused :
    NoticesOk (withNotices [sampleNotice 1] ready) ∧ sameSubject sampleOffer (sampleNotice 1) = true ∧
      NoticesOk (withNotices (manyNotices 47) ready) ∧ NoticesOk (withNotices (manyNotices 64) ready) ∧
      (manyNotices 47).all (fun e => !sameSubject sampleOffer e) = true ∧
      (manyNotices 64).all (fun e => !sameSubject sampleOffer e) = true ∧ (manyNotices 64).length = 64 := by
  decide +kernel

theorem witness_OfferIsMergedInsertedOrRefused_answers :
    (takeOffer sampleOffer (withNotices (manyNotices 64) ready)).1 = .refused ∧
      (takeOffer sampleOffer ready).1 = .inserted 1 := ⟨rfl, rfl⟩

theorem witness_ListNoticesShowsTheQueue :
    AtHead (withHead .listNotices [0, 1, 8] (withNotices [sampleNotice 1, sampleNotice 2] ready)) .a .listNotices
        ⟨0, .listNotices, [0, 1, 8]⟩ ∧
      u8 [0, 0, 0] 2 < 1 ∧ 8 < u8 [0, 0, 9] 2 ∧ u16 .big [0, 0, 1] 0 = 0 ∧ u16 .big [0, 1, 8] 0 = (sampleNotice 1).id ∧
      (∀ e ∈ [sampleNotice 1, sampleNotice 2], e.id ≠ u16 .big [0, 3, 8] 0) ∧ u16 .big [0, 3, 8] 0 ≠ 0 :=
  ⟨atHead_withHead _ _ rfl, by decide⟩

theorem witness_AcknowledgeRemovesTheEntry :
    AtHead (withHead .acknowledgeNotice [0, 1, 255] (withNotices [sampleNotice 1] ready)) .a .acknowledgeNotice
        ⟨0, .acknowledgeNotice, [0, 1, 255]⟩ ∧
      u8 [0, 1, 0] 2 = 0 ∧ u16 .big [0, 1, 255] 0 = (sampleNotice 1).id ∧
      (sampleNotice 1).occurrences = u8 [0, 1, 255] 2 ∧
      (sampleNotice 1).occurrences ≠ u8 [0, 1, 254] 2 ∧ u16 .big [0, 0, 1] 0 ≠ (sampleNotice 1).id :=
  ⟨atHead_withHead _ _ rfl, by decide⟩

theorem witness_CalendarIsClosedAndSet :
    AtHead (withHead .closeDay [] ready) .a .closeDay ⟨0, .closeDay, []⟩ ∧
      AtHead (withHead .setCalendar [0xFF, 0xFF] ready) .a .setCalendar ⟨0, .setCalendar, [0xFF, 0xFF]⟩ ∧
      AtHead (withHead .setLateWindow [14] ready) .a .setLateWindow ⟨0, .setLateWindow, [14]⟩ ∧
      sweepingState.calendar.sweep = .sweeping ∧ ready.calendar.sweep = .idle ∧ 65535 ≤ 65535 ∧
      ready.calendar.day < 65535 ∧ (running .active).calendar.enrolment ≠ 0 ∧ ready.calendar.enrolment = 0 ∧
      sweepingState.calendar.enrolment = 0 ∧ u8 [14] 0 ≤ 14 ∧ 14 < u8 [15] 0 :=
  ⟨atHead_withHead _ _ rfl, atHead_withHead _ _ rfl, atHead_withHead _ _ rfl, by decide⟩

theorem witness_SetWindowAlignsTheBase :
    AtHead (withHead .setWindow [2, 3, 0xFF, 0, 16] ready) .a .setWindow ⟨0, .setWindow, [2, 3, 0xFF, 0, 16]⟩ ∧
      2 < u8 [3] 0 ∧ u8 [2] 0 = portNumber .c ∧ u16 .big [2, 3, 0xFF, 0, 16] 1 = 1023 ∧
      u16 .big [2, 3, 0xFF, 0, 16] 3 = 16 ∧ 1023 < u16 .big [2, 4, 0, 4, 0] 1 ∧ u16 .big [2, 4, 0, 4, 0] 3 = 1024 :=
  ⟨atHead_withHead _ _ rfl, by decide⟩

/-- Port A's queue: a Close Day with an engine request behind it, the engine free, the pointer at A. -/
def closeDayBurst : State :=
  ready.modPort .a fun ps =>
    { ps with places := [⟨⟨0, .closeDay, []⟩, .waiting⟩, ⟨⟨1, .readChart, []⟩, .waiting⟩] }

def closeDayBusy : State :=
  { closeDayBurst with engine := some (.granted ⟨.b, ⟨0, .readChart, []⟩, .big, false⟩) }

theorem witness_CalendarIsClosedAndSet_first_slice :
    waitingHead closeDayBurst .a = some ⟨0, .closeDay, []⟩ ∧ closeDayBurst.engine = none ∧
      ([.a, .b, .c] : List Port).all (fun q => !present closeDayBurst (.port q)) = true ∧
      waitingHead closeDayBusy .a = some ⟨0, .closeDay, []⟩ ∧ closeDayBusy.engine ≠ none := by decide

/-- The first slice is granted at once, before the engine request behind the Close Day (R146, R148). -/
theorem test_close_day_grants_the_first_slice :
    (serveOwner .closeDay .a closeDayTake closeDayBurst).engine = some (.slice 0 .arrive) ∧
      (serveOwner .closeDay .a closeDayTake closeDayBurst).arbiter = ⟨.port .a, some .sweep, 1⟩ := ⟨rfl, rfl⟩

theorem test_window_of_the_manual : alignBase 300 256 = 256 := by decide

theorem witness_PortOptionsAreSet :
    AtHead (withHead .setPortOptions [1, 8] ready) .a .setPortOptions ⟨0, .setPortOptions, [1, 8]⟩ ∧ 1 < u8 [2, 8] 0 ∧
      u8 [1, 8] 0 = byteOrderNumber .little ∧ u8 [0, 9] 0 = byteOrderNumber .big ∧ 8 < u8 [0, 9] 1 ∧ u8 [0, 0] 1 < 1 :=
  ⟨atHead_withHead _ _ rfl, by decide⟩

theorem witness_FlagRequestsAndAttention :
    AtHead (withHead .readFlags [] ready) .a .readFlags ⟨0, .readFlags, []⟩ ∧
      AtHead (withHead .clearFlags [0x3F] ready) .a .clearFlags ⟨0, .clearFlags, [0x3F]⟩ ∧
      AtHead (withHead .setFlagEnables [0xFF] ready) .a .setFlagEnables ⟨0, .setFlagEnables, [0xFF]⟩ :=
  ⟨atHead_withHead _ _ rfl, atHead_withHead _ _ rfl, atHead_withHead _ _ rfl⟩

/-! ## Witnesses: readings -/

theorem witness_PostReadingIsAcceptedInOrder :
    Granted (withGrant .postReading (readingBody 7 0 9 4) (running .active)) .postReading
        (callerOf .postReading (readingBody 7 0 9 4)) ∧
      1 < u8 (readingBody 7 2 9 4) 2 ∧ u8 (readingBody 7 0 9 4) 2 = processNumber .f ∧
      u16 .big (readingBody 7 0 9 4) 0 = 7 ∧ ¬ u16 .big ([4, 0] ++ readingBody 7 0 9 4) 0 < 1024 ∧
      ((running .off).chart 7 .f).state = .off ∧ ((running .suspended).chart 7 .f).state = .suspended ∧
      ((running .active).chart 7 .f).state = .active ∧ ((running .overdue).chart 7 .f).state = .overdue ∧
      (running .active).calendar.day < u16 .big (readingBody 7 0 9 6) 5 ∧
      u16 .big (readingBody 7 0 9 1) 5 + 3 < (running .active).calendar.day ∧
      (running .active).calendar.day ≤ u16 .big (readingBody 7 0 9 2) 5 + 3 ∧
      ((running .active).chart 7 .f).lastDay = some 3 ∧ u16 .big (readingBody 7 0 9 2) 5 < 3 ∧
      3 ≤ u16 .big (readingBody 7 0 9 3) 5 ∧ u16 .big (readingBody 7 0 0 4) 3 = 0 ∧
      findLot ((running .active).table .f).lots 8 = none ∧
      findLot ((running .active).table .f).lots (u16 .big (readingBody 7 0 9 4) 3) = some (sampleLot 9 1) :=
  ⟨granted_withGrant _ _ _, by decide⟩

theorem witness_DensitiesAndDeviations : (0 : Nat) < 255 ∧ (255 : Nat) ≤ 255 := by decide

/-- Charted with AL passed, and held in a lot change. -/
theorem witness_ChartArithmetic :
    isCharted (sampleChart .active) RefTable.reset.film.profile.values .speed .r = true ∧
      isCharted (sampleChart .active) RefTable.reset.film.profile.values .top .r = false ∧
      (sampleReading 8 4).lot ≠ (sampleChart .active).currentLot ∧
      (sampleReading 9 4).lot = (sampleChart .active).currentLot := by decide

def evaluatingState (st : EvalStage) (s : State) : State :=
  { s with engine := some (.evaluating (callerOf .postReading (readingBody 7 0 9 4)) st) }

theorem witness_ClassifyPicksTheWinner :
    (evaluatingState (.computed (sampleEvaluation 9)) (running .active)).engine =
      some (.evaluating (callerOf .postReading (readingBody 7 0 9 4)) (.computed (sampleEvaluation 9))) := rfl

theorem witness_CommitWritesTheChart :
    (evaluatingState (.classified (sampleEvaluation 9) sampleResult) (running .overdue)).engine =
        some (.evaluating (callerOf .postReading (readingBody 7 0 9 4))
          (.classified (sampleEvaluation 9) sampleResult)) ∧
      lotActive (running .overdue) .f (sampleEvaluation 9).reading.lot = true ∧
      (sampleEvaluation 9).reading.lot = ((running .overdue).chart 7 .f).currentLot := ⟨rfl, by decide, by decide⟩

/-- Film lots 9 and 12 active, the chart on lot 9, day 25, past the lots' last usable day. -/
def twoLots (st : ChartState) : State :=
  { running st with
    refs := { RefTable.reset with film := ⟨[sampleLot 9 1, sampleLot 12 0], RefTable.reset.film.profile⟩ }
    calendar := ⟨25, 3, .idle, 0, 0, 1⟩ }

/-- A reading of lot 12 on a day, in store 7's film chart. -/
def lotChange (day : Nat) : Evaluation :=
  compute Instrument.reset (sampleChart .active) (sampleReading 12 day) 25 3 (sampleLot 12 0)
    RefTable.reset.film.profile

def drifted : Result := ⟨61, .watch, 0, [(3, 17)], 0⟩

/-- A lot change, an expired lot and one in use, and the four cases of the offers. -/
theorem witness_CommitWritesTheChart_clauses :
    (evaluatingState (.classified (lotChange 24) drifted) (twoLots .active)).engine =
        some (.evaluating (callerOf .postReading (readingBody 7 0 9 4)) (.classified (lotChange 24) drifted)) ∧
      lotActive (twoLots .active) .f (lotChange 24).reading.lot = true ∧
      (lotChange 24).reading.lot ≠ ((twoLots .active).chart 7 .f).currentLot ∧
      (lotChange 24).lotChanged = true ∧ (lotChange 24).lot.values.lastUsable = some 20 ∧
      20 < (lotChange 24).reading.day ∧ (lotChange 20).reading.day ≤ 20 ∧
      ((twoLots .active).chart 7 .f).state ≠ .overdue ∧ ((twoLots .overdue).chart 7 .f).state = .overdue ∧
      drifted.code ≠ 0 ∧ sampleResult.code = 0 := ⟨rfl, by decide⟩

/-- The points between the offers of a commit that makes two: both due, then one, then the end. -/
theorem witness_CommitWritesTheChart_parts :
    let first := evalPart (.classified (lotChange 24) drifted) (twoLots .overdue)
    let second := evalPart first.1 first.2
    (∃ resumed drift, first.1 = .offering (lotChange 24) drifted [resumed, drift] 0 false ∧
      resumed.cls = .attendance ∧ drift.cls = .condition ∧
      second.1 = .offering (lotChange 24) drifted [drift] 0 false) ∧
    (evaluatingState second.1 second.2).engine =
      some (.evaluating (callerOf .postReading (readingBody 7 0 9 4)) second.1) :=
  ⟨⟨_, _, rfl, rfl, rfl, rfl⟩, rfl⟩

theorem witness_CommitParksTheReading :
    (evaluatingState (.classified (sampleEvaluation 8) sampleResult) (running .active)).engine =
        some (.evaluating (callerOf .postReading (readingBody 7 0 9 4))
          (.classified (sampleEvaluation 8) sampleResult)) ∧
      lotActive (running .active) .f (sampleEvaluation 8).reading.lot = false := ⟨rfl, by decide⟩

/-! ## Witnesses: chart edits -/

theorem witness_EnrolChartInTwoSteps :
    Granted (withGrant .enrolChart [3, 0xFF, 1, 0, 9] ready) .enrolChart (callerOf .enrolChart [3, 0xFF, 1, 0, 9]) ∧
      1023 < u16 .big [4, 0, 0] 0 ∧ 1 < u8 [0, 0, 2] 2 ∧ u16 .big [3, 0xFF, 1] 0 ≤ 1023 ∧
      u8 [3, 0xFF, 1] 2 = processNumber .p ∧ ((running .active).chart 7 .f).state ≠ .off ∧
      (ready.chart 1023 .p).state = .off ∧ lotActive (running .active) .f 9 = true ∧
      lotActive (running .active) .p 9 = false := ⟨granted_withGrant _ _ _, by decide⟩

theorem witness_WithdrawChartInTwoSteps :
    Granted (withGrant .withdrawChart [0, 7, 0] (running .active)) .withdrawChart (callerOf .withdrawChart [0, 7, 0]) ∧
      1023 < u16 .big [4, 0, 0] 0 ∧ u16 .big [0, 7, 0] 0 ≤ 1023 ∧ u8 [0, 7, 0] 2 = processNumber .f ∧
      ((running .active).chart 7 .p).state = .off ∧ ((running .active).chart 7 .f).state ≠ .off ∧
      StoresOk (running .active) ∧ 7 < 1024 := ⟨granted_withGrant _ _ _, by decide⟩

theorem witness_ChartStateEdits :
    Granted (withGrant .suspendChart [0, 7, 0] (running .active)) .suspendChart (callerOf .suspendChart [0, 7, 0]) ∧
      Granted (withGrant .resumeChart [0, 7, 0, 1] (running .suspended)) .resumeChart
        (callerOf .resumeChart [0, 7, 0, 1]) ∧
      Granted (withGrant .restartChart [0, 7, 0] (running .active)) .restartChart (callerOf .restartChart [0, 7, 0]) ∧
      Granted (withGrant .setHold [0, 7, 0, 0, 1] (running .active)) .setHold (callerOf .setHold [0, 7, 0, 0, 1]) ∧
      1023 < u16 .big [4, 0, 0] 0 ∧ 1 < u8 [0, 0, 2] 2 ∧ u16 .big [0, 7, 0] 0 ≤ 1023 ∧
      u8 [0, 7, 0] 2 = processNumber .f ∧ 1 < u8 [0, 7, 0, 2] 3 ∧ u8 [0, 7, 0, 1] 3 ≤ 1 ∧ u8 [0, 7, 0, 0] 3 = 0 ∧
      ((running .off).chart 7 .f).state = .off ∧ ((running .active).chart 7 .f).state = .active ∧
      ((running .overdue).chart 7 .f).state = .overdue ∧ ((running .suspended).chart 7 .f).state = .suspended :=
  ⟨granted_withGrant _ _ _, granted_withGrant _ _ _, granted_withGrant _ _ _, granted_withGrant _ _ _, by decide⟩

theorem witness_InstrumentSetAndChartRead :
    Granted (withGrant .setInstrument [3, 0xFF, 12, 1, 32, 0, 0, 1, 31] ready) .setInstrument
        (callerOf .setInstrument [3, 0xFF, 12, 1, 32, 0, 0, 1, 31]) ∧
      Granted (withGrant .readChart [3, 0xFF, 1] ready) .readChart (callerOf .readChart [3, 0xFF, 1]) ∧
      1023 < u16 .big [4, 0, 12] 0 ∧ u8 [0, 0, 9] 2 ≠ 8 ∧ u8 [0, 0, 12] 2 = 12 ∧
      (∀ i < 3, u8 [3, 0xFF, 12, 1, 32, 0, 0, 1, 31] (3 + 2 * i) ≤ 1) ∧ ¬ u8 [0, 0, 12, 2, 0] 3 ≤ 1 ∧
      31 < u8 [3, 0xFF, 12, 1, 32, 0, 0, 1, 31] 4 ∧ 1 < u8 [0, 0, 2] 2 ∧ u8 [3, 0xFF, 1] 2 = processNumber .p :=
  ⟨granted_withGrant _ _ _, granted_withGrant _ _ _, by decide⟩

theorem witness_InstrumentSetAndChartRead_stores : StoresOk (running .active) ∧ (7 : Nat) < 1024 := by decide

/-- The Restore Chart body of a chart, store 7, process F. -/
def restoreBody (c : Chart) : List Octet := [0, 7, 0] ++ (chartFields c).flatMap (Field.octets .big)

theorem witness_RestoreChartInTwoSteps :
    Granted (withGrant .restoreChart (restoreBody (sampleChart .active)) ready) .restoreChart
        (callerOf .restoreChart (restoreBody (sampleChart .active))) ∧
      recordValid .big (restoreBody (sampleChart .off)) = false ∧
      recordValid .big (restoreBody (sampleChart .active)) = true ∧
      (ready.chart 7 .f).state = .off ∧ ((running .active).chart 7 .f).state ≠ .off ∧
      (carriedChart .big (restoreBody (sampleChart .active))).lastDay = some 3 ∧ ready.calendar.day < 3 ∧
      calendarAdmits (running .off).calendar.day (carriedChart .big (restoreBody (sampleChart .active))) = true ∧
      lotActive (running .off) .f 9 = true ∧ lotActive ready .f 9 = false :=
  ⟨granted_withGrant _ _ _, by decide +kernel⟩

theorem witness_RestoreChartInTwoSteps_fields :
    u8 [0, 7, 0, 1] 3 = 1 ∧ u8 [0, 7, 0, 2] 3 = 2 ∧ u8 [0, 7, 0, 3] 3 = 3 ∧ bit8 [0, 7, 0, 1, 0xFB] 4 2 = false ∧
      bit8 [0, 7, 0, 1, 0x04] 4 2 = true ∧ severityNumber .stop = u8 [3] 0 ∧
      u8 (List.replicate 168 (0xFF : Octet)) 19 = 0xFF := by decide

/-- An OVERDUE chart with every optional item at an end of its range: a parked reading on the day L, a last result of
two deviations, E and a run at their ends. -/
def fullChart : Chart :=
  { sampleChart .overdue with
    lotRevision := 255
    enrolDay := 65535
    lastDay := some 65535
    missed := 255
    pvs := PerPv.tab fun _ _ => ⟨some (-2047), -32752, .neg, 15⟩
    hold := 0xFFF
    lastResult := some ⟨65535, 63, .stop, 0xFFFF, [(0, 2047), (11, -2047)]⟩
    parked := some ⟨1, 65535, PerItem.tab fun _ _ => 65535⟩
    staleCount := 65535 }

theorem fullChart_ok : ChartOk 65535 fullChart where
  off := fun h => (nomatch h)
  lot := by decide
  revision := by decide
  enrolDay := by decide
  lastDay := fun _ h => by cases h; decide
  missed := by decide
  pvs := fun g x => by
    cases g <;> cases x <;> exact ⟨fun _ h => by cases h; decide, by decide, by decide⟩
  lastResult := fun _ h => by cases h; exact ⟨by decide, by decide, by decide, by decide⟩
  parked := fun _ h => by
    cases h
    exact ⟨by decide, by decide, fun _ hl => by cases hl; decide, by decide⟩
  evaluated := by decide
  stale := by decide
  expired := by decide

theorem witness_ReadRecordIsRestored :
    ([0, 7, 0] : List Octet).length = 3 ∧ ChartOk 65535 fullChart ∧ fullChart.state ≠ .off :=
  ⟨rfl, fullChart_ok, by decide⟩

theorem test_record_is_carried_back :
    recordValid .little ([0, 7, 0] ++ (chartFields fullChart).flatMap (Field.octets .little)) = true ∧
      carriedChart .little ([0, 7, 0] ++ (chartFields fullChart).flatMap (Field.octets .little)) = fullChart := by
  decide +kernel

/-! ## Witnesses: the sweep and the invariants -/

theorem witness_SliceVisitsEightStores :
    ({ sweepingState with engine := some (.slice 0 .arrive) } : State).engine = some (.slice 0 .arrive) ∧
      ((running .suspended).chart 7 .f).state = .suspended ∧ ((running .active).chart 7 .f).parked = none ∧
      ((running .overdue).chart 7 .f).state = .overdue := by decide

theorem witness_RetryOfAParkedReading :
    findLot ((running .active).table .f).lots 8 = none ∧
      findLot ((running .active).table .f).lots 9 = some (sampleLot 9 1) ∧
      1 + (running .active).calendar.lateWindow < (running .active).calendar.day ∧
      (running .active).calendar.day ≤ 2 + (running .active).calendar.lateWindow ∧
      (commitWrite (sampleEvaluation 9) sampleResult (running .active)).isSome = true ∧
      commitWrite (sampleEvaluation 8) sampleResult (running .active) = none := by decide +kernel

theorem witness_MissesAndOverdue :
    countsMiss 3 (sampleChart .active) = false ∧ countsMiss 4 (sampleChart .active) = true ∧
      countsMiss 4 (sampleChart .overdue) = true ∧
      missedPlus (sampleChart .active) < (RefTable.reset.film).profile.values.overdueLimit ∧
      (RefTable.reset.film).profile.values.overdueLimit ≤ missedPlus { sampleChart .active with missed := 1 } ∧
      missedPlus { sampleChart .overdue with missed := 255 } = 255 := by decide

theorem witness_OwedNoticesAreReissued :
    (Owed.get ⟨true, true, true⟩ .condition = true ∧ Owed.get ⟨false, false, false⟩ .held = false) ∧
      rebuiltOffer 7 .f 4 (sampleChart .active) .condition = none ∧
      (rebuiltOffer 7 .f 4 (sampleChart .active) .attendance).isSome = true ∧
      (rebuiltOffer 7 .f 4 (sampleChart .overdue) .attendance).isSome = true ∧
      rebuiltOffer 7 .f 4 { sampleChart .active with lastDay := none } .attendance = none ∧
      rebuiltOffer 7 .f 4 (sampleChart .active) .held = none ∧
      (rebuiltOffer 7 .f 4 { sampleChart .active with parked := some ⟨8, 4, PerItem.tab fun _ _ => 0⟩ } .held).isSome =
        true ∧
      (takeOffer sampleOffer (withNotices (manyNotices 64) ready)).1 = .refused ∧
      (takeOffer sampleOffer (withNotices [] ready)).1 ≠ .refused := by decide +kernel

/-- Day 5 is being closed, and the slice in flight covers stores 0..7: chart 14 is store 7's film chart. -/
def sliceAt (st : VisitStage) (s : State) : State :=
  { s with engine := some (.slice 14 st), calendar := ⟨6, 3, .sweeping, 5, 0, 1⟩ }

/-- Store 7's film chart with a missed count of 1 and a parked reading on a lot and day. -/
def withParked (lot day : Nat) (s : State) : State :=
  s.modChart 7 .f fun c => { c with missed := 1, parked := some ⟨lot, day, PerItem.tab fun _ _ => 500⟩ }

theorem witness_PartsComeToTheWhole :
    (evaluatingState (.classified (sampleEvaluation 9) sampleResult) (running .active)).engine.isSome = true ∧
      ({ sweepingState with engine := some (.slice 15 .miss) } : State).engine = some (.slice 15 .miss) ∧
      ({ sweepingState with engine := some (.slice 16 .arrive) } : State).engine = some (.slice 16 .arrive) := by
  decide

/-- The points of a slice: a parked reading on an active lot, in and before the late window; an ACTIVE chart that
reaches the overdue limit and an OVERDUE one. -/
theorem witness_PartsComeToTheWhole_slice :
    (sliceAt .arrive (withParked 9 4 (running .active))).engine = some (.slice 14 .arrive) ∧
      (sliceAt .arrive (withParked 9 4 (running .active))).calendar.nextStore + 14 / 2 = 7 ∧
      ((withParked 9 4 (running .active)).chart 7 .f).state = .active ∧
      ((withParked 9 4 (running .active)).chart 7 .f).parked.isSome = true ∧
      (sliceAt .arrive (running .active)).calendar.day ≤ 3 + 3 ∧ 2 + 3 < (sliceAt .arrive ready).calendar.day ∧
      ((withParked 9 4 (running .active)).chart 7 .f).enrolDay ≤ 5 ∧
      ((withParked 9 4 (running .active)).chart 7 .f).lastDay = some 3 ∧
      (RefTable.reset.film).profile.values.overdueLimit ≤
        min 255 (((withParked 9 4 (running .active)).chart 7 .f).missed + 1) ∧
      ((running .overdue).chart 7 .f).state = .overdue := by decide

/-- Its other points: a chart passed over, a parked reading on a lot that is not active, a miss below the limit and
none, the stages of the retry that are its last and not. -/
theorem witness_PartsComeToTheWhole_slice_others :
    ((running .off).chart 7 .f).state = .off ∧ ((running .suspended).chart 7 .f).state = .suspended ∧
      ((withParked 8 4 (running .active)).chart 7 .f).parked.isSome = true ∧
      findLot ((withParked 8 4 (running .active)).table .f).lots 8 = none ∧
      min 255 (((running .active).chart 7 .f).missed + 1) < (RefTable.reset.film).profile.values.overdueLimit ∧
      countsMiss 3 (sampleChart .active) = false ∧
      (evalPart (.computed (sampleEvaluation 9)) (running .active)).1 =
        .classified (sampleEvaluation 9) (classifyNow (sampleEvaluation 9) (running .active)) ∧
      (evalPart (.ending (.bare .ok)) (running .active)).1 = .ending (.bare .ok) :=
  ⟨rfl, rfl, rfl, rfl, by decide, rfl, rfl, rfl⟩

/-- The C and W of a retry are those at its calendar question, after the lot question has been answered (R134): a
late window narrowed between the two discards the reading. -/
theorem test_window_set_between_the_retry_questions :
    (slicePart (sliceAt .arrive (withParked 9 3 (running .active)))).engine =
        some (.slice 14 (.snapped (sampleReading 9 3) (sampleLot 9 1) RefTable.reset.film.profile)) ∧
      (let s := slicePart (sliceAt .arrive (withParked 9 3 (running .active)))
        let t := slicePart { s with calendar := { s.calendar with lateWindow := 0 } }
        t.engine = some (.slice 14 .miss) ∧ (t.chart 7 .f).staleCount = 1) :=
  ⟨rfl, rfl, rfl⟩

/-- An order that R133 allows in flight: a profile with a higher overdue limit is promoted after the limit question and
before the OVERDUE offer, which is made as the answer decided it (R136). -/
theorem test_profile_promoted_between_limit_and_offer :
    (slicePart (sliceAt .miss (withParked 8 4 (running .active)))).engine = some (.slice 14 (.overdue 2)) ∧
      (let s := slicePart (sliceAt .miss (withParked 8 4 (running .active)))
        let raised : ProcTable :=
          ⟨(s.table .f).lots, ⟨{ RefTable.reset.film.profile.values with overdueLimit := 15 }, 1⟩⟩
        let t := slicePart (s.setTable .f raised)
        t.engine = some (.slice 14 (.owed .condition)) ∧ (t.notices.entries.map (·.missed)) = [some 2]) :=
  ⟨rfl, rfl, rfl⟩

/-- The premises of the invariants are met by a state with a lot, a chart on it and its enrolment. -/
theorem witness_invariants :
    StoresOk (running .active) ∧ NoticesOk (running .active) ∧ TableOk ((running .active).table .f) ∧
      EnrolmentOk (running .active) ∧ step (running .active) = .next (running .active) := by
  refine ⟨by decide, by decide, by decide +kernel, ⟨by decide, trivial, by decide⟩, rfl⟩

/-- The premises of the port, calendar and arbiter invariants are met by the part after its release. -/
theorem witness_ports_and_arbiter : PortsOk ready ∧ CalendarOk ready ∧ ArbiterOk ready ∧ ReferenceOk ready := by
  have hp : ∀ p, ready.port p = { PortState.reset with rights := allRights } := by intro p; cases p <;> rfl
  refine ⟨fun p => ?_, by unfold CalendarOk; decide, ⟨⟨rfl, rfl, fun q => ?_⟩, fun p => ?_⟩, fun pr => ?_, fun p => ?_⟩
  · rw [hp]
    exact ⟨by decide, by decide, by decide, by decide, by decide, fun _ h => absurd h List.not_mem_nil, rfl, rfl⟩
  · cases q with
    | port p => cases p <;> decide
    | sweep => decide
  · unfold InFlightOk
    rw [hp]
    exact fun _ h => absurd h List.not_mem_nil
  · cases pr <;> decide
  · rw [hp]
    exact And.intro (fun _ h => nomatch h) (fun _ h => nomatch h)

/-- The running part with a notice that names its chart. -/
def noticed : State := { running .active with notices := ⟨[{ sampleNotice 7 with store := 7 }], 8⟩ }

theorem sampleChart_ok : ChartOk 5 (sampleChart .active) where
  off := fun h => (nomatch h)
  lot := by decide
  revision := by decide
  enrolDay := by decide
  lastDay := fun _ h => by cases h; decide
  missed := by decide
  pvs := fun g x => by cases g <;> cases x <;> exact pvOk_off
  lastResult := fun _ h => (nomatch h)
  parked := fun _ h => (nomatch h)
  evaluated := by decide
  stale := by decide
  expired := by decide

theorem noticed_charts (n : Nat) (pr : Process) : ChartOk 5 (noticed.chart n pr) := by
  unfold State.chart State.entry noticed running
  simp only [storeGet]
  split
  · cases pr with
    | f => exact sampleChart_ok
    | p => exact chartOk_off 5
  · cases pr <;> exact chartOk_off 5

/-- The premises of the last clause of CalendarAndStoresKeepTheirForm are met by a part with a lot, a chart on it and
a notice that names it. -/
theorem witness_CalendarAndStoresKeepTheirForm :
    ReferenceOk noticed ∧ CalendarOk noticed ∧ EnrolmentOk noticed ∧ ChartsOk noticed ∧ step noticed = .next noticed := by
  refine ⟨⟨fun pr => ?_, fun p => ?_⟩, by unfold CalendarOk; decide, ⟨by decide, trivial, by decide⟩,
    ⟨noticed_charts, by decide, by decide +kernel, trivial⟩, rfl⟩
  · cases pr <;> decide +kernel
  · have hp : noticed.port p = { PortState.reset with rights := allRights } := by cases p <;> rfl
    rw [hp]
    exact And.intro (fun _ h => nomatch h) (fun _ h => nomatch h)

theorem witness_StoreCountsAreRight : StoreCountsOk ready ∧ step ready = .next ready :=
  ⟨⟨by decide, trivial, fun pr => ⟨fun l h => (by cases pr <;> cases h), fun n h => (by cases pr <;> cases h)⟩⟩, rfl⟩

end Sys2Proof.Tests
end

namespace Sys2Proof.Machine

/-! ## Chapter 1 in COMPUTE

The clamps, the conversion of R7 and the normalized item, then the fields of an evaluation that COMPUTE fills from
them. -/

theorem clampInt_eq_max_min {lo hi : Int} (h : lo ≤ hi) (x : Int) : clampInt lo hi x = max lo (min hi x) := by
  unfold clampInt
  split
  · omega
  · split <;> omega

theorem toNat_clampInt_zero (hi : Nat) (x : Int) : ((clampInt 0 hi x).toNat : Int) = max 0 (min (hi : Int) x) := by
  have h := clampInt_eq_max_min (Int.natCast_nonneg hi) x
  omega

/-- The conversion of R7 is to the nearest mD, and a tie goes up. -/
theorem convertCode_nearest {full : Nat} (k : Nat) (h : 0 < full) :
    2 * full * convertCode full k ≤ 8000 * k + full ∧ 8000 * k < 2 * full * convertCode full k + full := by
  have hdiv := Nat.div_add_mod (k * 8000 + full) (2 * full)
  have hmod := Nat.mod_lt (k * 8000 + full) (show 2 * full > 0 by omega)
  unfold convertCode
  omega

theorem convertCode_le {full k : Nat} (h : 0 < full) (hk : k ≤ full) : convertCode full k ≤ 4000 := by
  have hlt : (k * 8000 + full) / (2 * full) < 4001 := (Nat.div_lt_iff_lt_mul (by omega)).2 (by omega)
  exact Nat.le_of_lt_succ hlt

theorem convertCode_zero {full : Nat} (h : 0 < full) : convertCode full 0 = 0 :=
  Nat.div_eq_of_lt (by omega)

theorem convertCode_full {full : Nat} (h : 0 < full) : convertCode full full = 4000 :=
  Nat.div_eq_of_lt_le (by omega) (by omega)

/-- The density of a normalized item, as an integer (R6 to R9). -/
theorem normalizeItem_density (full : Nat) (offset : Int) (code : Nat) :
    ((normalizeItem full offset code).1 : Int) =
      max 0 (min 4000 (((min code full * 8000 + full) / (2 * full) : Nat) + 2 * offset)) :=
  toNat_clampInt_zero 4000 _

/-- The mark of a normalized item: the code or the sum was outside its range (R9). -/
theorem normalizeItem_marked (full : Nat) (offset : Int) (code : Nat) :
    (normalizeItem full offset code).2 = true ↔
      full < code ∨ (((min code full * 8000 + full) / (2 * full) : Nat) + 2 * offset : Int) < 0 ∨
        4000 < (((min code full * 8000 + full) / (2 * full) : Nat) + 2 * offset : Int) := by
  simp [normalizeItem, convertCode, Config.maxDensity, or_assoc]

/-- The mask holds each item's mark at the item's number (R2, R9). -/
theorem getLsbD_clampedMask (norm : PerItem (Nat × Bool)) (p : Patch) (c : Channel) :
    (clampedMask norm).getLsbD (itemNumber p c) = (norm.item p c).2 := by
  unfold clampedMask
  rw [getLsbD_bitsOf]
  cases p <;> cases c <;> rfl

theorem item_normalize (ins : Instrument) (codes : PerItem Nat) (p : Patch) (c : Channel) :
    (normalize ins codes).item p c =
      normalizeItem (fullScale ins.resolution) (ins.offsets.get c) (codes.item p c) := PerItem.item_tab _ p c

theorem deviation_pvWork (chart : Chart) (pf : ProfileValues) (changed : Bool) (g : Group) (c : Channel) (dev : Int) :
    (pvWork chart pf changed g c dev).deviation = dev := by
  unfold pvWork
  split <;> rfl

section Compute
variable (ins : Instrument) (chart : Chart) (rd : Reading) (day window : Nat) (lot : LotRecord) (pf : Profile)

theorem densities_compute (p : Patch) (c : Channel) :
    (compute ins chart rd day window lot pf).densities.item p c =
      (normalizeItem (fullScale ins.resolution) (ins.offsets.get c) (rd.codes.item p c)).1 := by
  rw [← item_normalize]
  exact PerItem.item_tab _ p c

theorem clampedMask_compute (p : Patch) (c : Channel) :
    (compute ins chart rd day window lot pf).clampedMask.getLsbD (itemNumber p c) =
      (normalizeItem (fullScale ins.resolution) (ins.offsets.get c) (rd.codes.item p c)).2 := by
  rw [← item_normalize]
  exact getLsbD_clampedMask _ p c

theorem measured_compute (g : Group) (c : Channel) :
    (compute ins chart rd day window lot pf).measured.pv g c =
      measuredPv (compute ins chart rd day window lot pf).densities g c := PerPv.pv_tab _ g c

theorem aims_compute (g : Group) (c : Channel) :
    (compute ins chart rd day window lot pf).aims.pv g c = aimPv lot.values g c := PerPv.pv_tab _ g c

theorem deviation_compute (g : Group) (c : Channel) :
    ((compute ins chart rd day window lot pf).pvs.pv g c).deviation =
      saturateDeviation ((compute ins chart rd day window lot pf).measured.pv g c -
        (compute ins chart rd day window lot pf).aims.pv g c) :=
  (congrArg PvWork.deviation (PerPv.pv_tab _ g c)).trans (deviation_pvWork ..)

end Compute

/-- Settles O36: the conversion is a quotient with its remainder, the density and the mark are those of the normalized
item, and the deviation is the clamp of the difference. -/
theorem densitiesAndDeviations : Obligations.DensitiesAndDeviations := by
  refine ⟨fun ins chart rd day window lot pf => ⟨fun p c => ?_, fun c => ?_, fun g c => ?_⟩, fun full k hf hk => ?_⟩
  · intro full code sum
    have hfull : fullScale ins.resolution = full := by
      unfold full
      cases ins.resolution <;> rfl
    rw [densities_compute, clampedMask_compute, hfull]
    exact ⟨normalizeItem_density full _ code, normalizeItem_marked full _ code⟩
  · simp only [measured_compute, aims_compute]
    exact ⟨rfl, rfl, rfl, rfl, rfl, rfl, rfl, rfl⟩
  · rw [deviation_compute]
    exact clampInt_eq_max_min (by decide) _
  · exact ⟨convertCode_le hf hk, convertCode_zero hf, convertCode_full hf, convertCode_nearest k hf⟩

end Sys2Proof.Machine

namespace Sys2Proof.Machine

/-! ## Device reset

What DEVICE_RESET leaves, part by part (R169). -/

/-- The part after a device reset: the reset state, with the queue of commands as it was. -/
def deviceResetState (s : State) : State := { State.reset with pending := s.pending }

theorem exec_deviceReset (s : State) : exec .deviceReset s = .next (deviceResetState s) := rfl

theorem port_deviceResetState (s : State) (p : Port) : (deviceResetState s).port p = PortState.reset := by
  cases p <;> rfl

theorem lots_deviceResetState (s : State) (pr : Process) : ((deviceResetState s).table pr).lots = [] := by
  cases pr <;> rfl

/-- Both processes hold a default profile; they differ in the groups plotted alone (R21). -/
theorem profile_deviceResetState (s : State) (pr : Process) :
    ∃ plotted, ((deviceResetState s).table pr).profile = Profile.default plotted := by
  cases pr
  · exact ⟨_, rfl⟩
  · exact ⟨_, rfl⟩

theorem chart_deviceResetState (s : State) (n : Nat) (pr : Process) : (deviceResetState s).chart n pr = Chart.off := by
  cases pr <;> rfl

theorem patterns_deviceResetState (s : State) (i : Fin 16) :
    (deviceResetState s).patterns[i] = PatternEntry.zero :=
  Vector.getElem_replicate i.isLt

theorem pv_chart_off (g : Group) (c : Channel) : Chart.off.pvs.pv g c = ⟨none, 0, .zero, 0⟩ := PerPv.pv_tab _ g c

theorem expectPv_zero (g : Group) (c : Channel) : PatternEntry.zero.expectPv.pv g c = .none := PerPv.pv_tab _ g c

theorem expectSpread_zero (g : Group) : PatternEntry.zero.expectSpread.get g = .absent := Groups.get_tab _ g

/-- Settles O3: each part of the state after a device reset is one of the model's reset values, whose fields are those
of R169. -/
theorem deviceResetGivesResetValues : Obligations.DeviceResetGivesResetValues := by
  intro s
  refine ⟨_, exec_deviceReset s, rfl, rfl, fun p => ?port, rfl, rfl, fun pr => ?table, rfl, rfl,
    fun n => ⟨rfl, fun pr => ?chart⟩, fun i => ?pattern, rfl, rfl, rfl⟩
  case port =>
    rw [port_deviceResetState]
    and_intros <;> rfl
  case table =>
    obtain ⟨plotted, hpf⟩ := profile_deviceResetState s pr
    rw [hpf]
    exact ⟨lots_deviceResetState s pr, rfl, rfl, rfl, rfl, rfl⟩
  case chart =>
    rw [chart_deviceResetState]
    exact ⟨rfl, rfl, rfl, rfl, rfl, rfl, rfl, pv_chart_off, rfl, rfl, rfl, rfl, rfl, rfl, rfl, rfl⟩
  case pattern =>
    rw [patterns_deviceResetState]
    exact ⟨rfl, rfl, expectPv_zero, expectSpread_zero, rfl, rfl, rfl, rfl⟩

end Sys2Proof.Machine

namespace Sys2Proof.Machine

/-! ## The chart a request names (R1, R52) -/

theorem processOfNumber_processNumber (pr : Process) : processOfNumber (processNumber pr) = some pr := by
  cases pr <;> rfl

theorem processOfNumber_eq_none {n : Nat} (h : 1 < n) : processOfNumber n = none := by
  obtain ⟨k, rfl⟩ := Nat.exists_eq_add_of_le' h
  rfl

theorem namedChart_eq_some {c : Caller} {pr : Process} (hs : u16 c.order c.request.body 0 ≤ 1023)
    (hp : u8 c.request.body 2 = processNumber pr) : namedChart c = some (u16 c.order c.request.body 0, pr) := by
  have hlt : u16 c.order c.request.body 0 < Config.stores := Nat.lt_succ_of_le hs
  simp only [namedChart, if_pos hlt, hp, processOfNumber_processNumber, Option.map_some]

theorem namedChart_eq_none {c : Caller} (h : 1023 < u16 c.order c.request.body 0 ∨ 1 < u8 c.request.body 2) :
    namedChart c = none := by
  unfold namedChart
  rcases h with hs | hp
  · exact if_neg (Nat.not_lt.2 hs)
  · rw [processOfNumber_eq_none hp]
    exact ite_self none

/-- A request that names no chart is refused (R52). -/
theorem onChart_none {c : Caller} (h : namedChart c = none) (f : Nat → Process → State → State) (s : State) :
    onChart c f s = finishOperation c (.bare .badValue) s := by
  unfold onChart
  rw [h]

theorem onChart_some {c : Caller} {store : Nat} {pr : Process} (h : namedChart c = some (store, pr))
    (f : Nat → Process → State → State) (s : State) : onChart c f s = f store pr s := by
  unfold onChart
  rw [h]

/-! ## Writes of the Store Table, the instrument among them -/

theorem entry_setChart {s : State} (h : StoresOk s) (n m : Nat) (pr : Process) (ch : Chart) :
    (s.setChart n pr ch).entry m = if m = n ∧ n < Config.stores then (s.entry n).withChart pr ch else s.entry m :=
  entry_setEntry h n m _

/-- A write of a chart keeps the instrument settings of every store (R49). -/
theorem instrument_setChart {s : State} (h : StoresOk s) (n m : Nat) (pr : Process) (ch : Chart) :
    ((s.setChart n pr ch).entry m).instrument = (s.entry m).instrument := by
  rw [entry_setChart h]
  split
  · next hm => rw [instrument_withChart, hm.1]
  · rfl

/-! ## The carried instrument settings (R4, R172) -/

theorem resolutionOfNumber_resolutionNumber (r : Resolution) : resolutionOfNumber (resolutionNumber r) = some r := by
  cases r <;> rfl

theorem exists_resolution_iff (n : Nat) : (∃ r, resolutionNumber r = n) ↔ n = 8 ∨ n = 10 ∨ n = 12 := by
  constructor
  · rintro ⟨_ | _ | _, rfl⟩ <;> decide
  · rintro (rfl | rfl | rfl)
    · exact ⟨.bits8, rfl⟩
    · exact ⟨.bits10, rfl⟩
    · exact ⟨.bits12, rfl⟩

theorem resolutionOfNumber_eq_some {n : Nat} {r : Resolution} (h : resolutionOfNumber n = some r) :
    resolutionNumber r = n := by
  unfold resolutionOfNumber at h
  split at h <;> cases h <;> rfl

theorem carriedOffset_eq_some {sign : Nat} (h : sign ≤ 1) (magnitude : Nat) :
    carriedOffset sign magnitude = some ((if sign = 1 then -1 else 1 : Int) * (min 31 magnitude : Nat)) := by
  rw [Nat.min_comm]
  obtain rfl | rfl : sign = 0 ∨ sign = 1 := by omega
  · simp [carriedOffset]
  · simp [carriedOffset]

theorem carriedOffset_eq_none {sign : Nat} (h : 1 < sign) (magnitude : Nat) : carriedOffset sign magnitude = none := by
  obtain ⟨k, rfl⟩ := Nat.exists_eq_add_of_le' h
  rfl

/-- Settings that R4 admits are carried as they are, each magnitude held to 31. -/
theorem carriedInstrument_eq_some {body : List Octet} {r : Resolution} (hr : resolutionNumber r = u8 body 2)
    (hsign : ∀ i, i < 3 → u8 body (3 + 2 * i) ≤ 1) :
    carriedInstrument body = some ⟨r, Channels.tab fun ch =>
      (if u8 body (3 + 2 * ch.number) = 1 then -1 else 1) * (min 31 (u8 body (4 + 2 * ch.number)) : Nat)⟩ := by
  unfold carriedInstrument
  rw [← hr, resolutionOfNumber_resolutionNumber, carriedOffset_eq_some (hsign 0 (by decide)),
    carriedOffset_eq_some (hsign 1 (by decide)), carriedOffset_eq_some (hsign 2 (by decide))]
  rfl

/-- Settings carried by a body have a resolution and signs that R4 admits. -/
theorem carriedInstrument_admitted {body : List Octet} {ins : Instrument} (h : carriedInstrument body = some ins) :
    resolutionNumber ins.resolution = u8 body 2 ∧ ∀ i, i < 3 → u8 body (3 + 2 * i) ≤ 1 := by
  unfold carriedInstrument at h
  split at h
  · next hr hx hy hz =>
    cases h
    refine ⟨resolutionOfNumber_eq_some hr, fun i hi => Nat.le_of_not_lt fun hbad => ?_⟩
    obtain rfl | rfl | rfl : i = 0 ∨ i = 1 ∨ i = 2 := by omega
    · rw [carriedOffset_eq_none hbad] at hx; cases hx
    · rw [carriedOffset_eq_none hbad] at hy; cases hy
    · rw [carriedOffset_eq_none hbad] at hz; cases hz
  · cases h

theorem clampedChannels_eq_filter (body : List Octet) :
    clampedChannels body = [0, 1, 2].filter fun i => decide (31 < u8 body (4 + 2 * i)) := by
  by_cases hr : 31 < u8 body 4 <;> by_cases hg : 31 < u8 body 6 <;> by_cases hb : 31 < u8 body 8 <;>
    simp [clampedChannels, allChannels, Channel.number, hr, hg, hb]

theorem mem_clampedChannels (body : List Octet) (i : Nat) :
    i ∈ clampedChannels body ↔ i < 3 ∧ 31 < u8 body (4 + 2 * i) := by
  have h012 : i ∈ [0, 1, 2] ↔ i < 3 := by
    simp only [List.mem_cons, List.not_mem_nil, or_false]
    omega
  rw [clampedChannels_eq_filter, List.mem_filter, h012, decide_eq_true_eq]

theorem clampedChannels_ascending (body : List Octet) : (clampedChannels body).Pairwise (· < ·) := by
  rw [clampedChannels_eq_filter]
  exact List.Pairwise.filter _ (by decide)

end Sys2Proof.Machine

namespace Sys2Proof.Machine

/-! ## The layouts of R172 and R176 -/

theorem channels_toList_eq_map {α : Type} (x : Channels α) : x.toList = ([.r, .g, .b] : List Channel).map x.get := rfl

/-- The twelve plotting values in PV order are those of the groups in turn. -/
theorem pvList_eq_flatMap {α : Type} (x : PerPv α) :
    x.list = ([.base, .speed, .contrast, .top] : List Group).flatMap fun g =>
      ([.r, .g, .b] : List Channel).map (x.pv g) := rfl

/-- The twelve items in item order are those of the patches in turn. -/
theorem itemList_eq_flatMap {α : Type} (x : PerItem α) :
    x.list = ([.dmin, .low, .high, .dmax] : List Patch).flatMap fun p =>
      ([.r, .g, .b] : List Channel).map (x.item p) := rfl

theorem instrumentFields_eq (ins : Instrument) : instrumentFields ins =
    .o8 (resolutionNumber ins.resolution) :: ([.r, .g, .b] : List Channel).flatMap fun ch =>
      [.o8 (if ins.offsets.get ch < 0 then 1 else 0), .o8 (ins.offsets.get ch).natAbs] := by
  rw [instrumentFields, channels_toList_eq_map, List.flatMap_map]

theorem flatMap_pvFields (x : PerPv PvState) : x.list.flatMap pvFields =
    ([.base, .speed, .contrast, .top] : List Group).flatMap fun g => ([.r, .g, .b] : List Channel).flatMap fun c =>
      pvFields (x.pv g c) := by
  simp only [pvList_eq_flatMap, List.flatMap_assoc, List.flatMap_map]

/-- The presence word of a chart record: which plotting values have a last deviation (R176). -/
def deviationPresence (ch : Chart) : BitVec 12 :=
  bitsOf 12 fun i => (ch.pvs.list.map (·.lastDeviation.isSome)).getD i false

theorem getLsbD_deviationPresence (ch : Chart) (g : Group) (x : Channel) :
    (deviationPresence ch).getLsbD (pvNumber g x) = (ch.pvs.pv g x).lastDeviation.isSome := by
  unfold deviationPresence
  rw [getLsbD_bitsOf]
  cases g <;> cases x <;> rfl

theorem parkedFields_some (pk : Parked) : parkedFields (some pk) = .o16 pk.lot :: .o16 pk.day ::
    ([.dmin, .low, .high, .dmax] : List Patch).flatMap fun p => ([.r, .g, .b] : List Channel).map fun c =>
      .o16 (pk.codes.item p c) := by
  simp only [parkedFields, itemList_eq_flatMap, List.map_flatMap, List.map_map]
  rfl

theorem resultFields_some (r : LastResult) : resultFields (some r) =
    [.o16 r.day, .o8 r.code, .o8 (severityNumber r.severity), .o16 r.matched.toNat, .o8 r.deviations.length] ++
      r.deviations.flatMap fun x => [.o8 x.1, .o16s x.2] := rfl

/-! ## SET_INSTRUMENT and READ_CHART on a granted request (R4, R49, R60) -/

theorem exec_setInstrument {s : State} {c : Caller} (h : Granted s .setInstrument c) :
    exec .setInstrument s = .next (instrumentTake c s) := congrArg Host.Outcome.next (withGranted_at h _)

theorem exec_readChart {s : State} {c : Caller} (h : Granted s .readChart c) :
    exec .readChart s = .next (onChart c (readChartTake c) s) := congrArg Host.Outcome.next (withGranted_at h _)

theorem instrumentTake_accepted {c : Caller} {ins : Instrument} (s : State)
    (hstore : u16 c.order c.request.body 0 ≤ 1023) (hins : carriedInstrument c.request.body = some ins) :
    instrumentTake c s = finishOperation c (clampReply [] (clampedChannels c.request.body))
      (s.setEntry (u16 c.order c.request.body 0)
        { s.entry (u16 c.order c.request.body 0) with instrument := ins }) := by
  have hlt : u16 c.order c.request.body 0 < Config.stores := Nat.lt_succ_of_le hstore
  simp only [instrumentTake, if_pos hlt, hins]

theorem instrumentTake_refused {c : Caller} (s : State)
    (h : 1023 < u16 c.order c.request.body 0 ∨ carriedInstrument c.request.body = none) :
    instrumentTake c s = finishOperation c (.bare .badValue) s := by
  unfold instrumentTake
  rcases h with hstore | hins
  · exact if_neg (Nat.not_lt.2 hstore)
  · simp only [hins]
    exact ite_self _

/-- Settles O44: writes are read back by the laws of the Store Table, the layouts are compared part by part, and each
command follows from what its request carries. -/
theorem instrumentSetAndChartRead : Obligations.InstrumentSetAndChartRead := by
  refine ⟨fun s n e pr ch f => ⟨rfl, rfl, rfl, fun h m => ⟨entry_setEntry h n m e, instrument_setChart h n m pr ch,
    fun qr => chart_setChart h n m pr qr ch⟩⟩, fun ins => ?instrumentLayout,
    fun ch => ⟨deviationPresence ch, getLsbD_deviationPresence ch, ?chartLayout⟩,
    fun s c => ⟨fun hg => ⟨fun hbad => ?refused, fun hstore hres hsign => ?accepted⟩,
      fun hg => ⟨fun hbad => ?unnamed, fun pr hstore hpr => ?read⟩⟩⟩
  case instrumentLayout =>
    rw [instrumentFields_eq]
    cases ins.resolution <;> rfl
  case chartLayout =>
    rw [chartFields, flatMap_pvFields]
    refine congrArg₂ (· ++ ·) (congrArg₂ (· ++ ·) (congrArg₂ (· ++ ·) (congrArg₂ (· ++ ·) ?head ?pvs) rfl) ?parked)
      ?result
    case head => cases ch.state <;> rfl
    case pvs => rfl
    case parked =>
      cases ch.parked with
      | none => rfl
      | some pk => exact parkedFields_some pk
    case result =>
      cases ch.lastResult with
      | none => rfl
      | some r => exact resultFields_some r
  case refused =>
    rw [exec_setInstrument hg, instrumentTake_refused]
    refine hbad.imp_right fun hval => Option.eq_none_iff_forall_not_mem.2 fun ins hins => ?_
    obtain ⟨hr, hs⟩ := carriedInstrument_admitted hins
    exact hval.elim (fun h => h ((exists_resolution_iff _).1 ⟨_, hr⟩)) (fun h => h hs)
  case accepted =>
    obtain ⟨r, hr⟩ := (exists_resolution_iff _).2 hres
    have hins := carriedInstrument_eq_some hr hsign
    exact ⟨_, clampedChannels c.request.body,
      (exec_setInstrument hg).trans (congrArg _ (instrumentTake_accepted s hstore hins)), hr, Channels.get_tab _,
      clampedChannels_ascending _, mem_clampedChannels _⟩
  case unnamed => rw [exec_readChart hg, onChart_none (namedChart_eq_none hbad)]
  case read => rw [exec_readChart hg, onChart_some (namedChart_eq_some hstore hpr)]; rfl

end Sys2Proof.Machine

namespace Sys2Proof.Machine

/-! ## Fields of a body and of a reply (R159, R171) -/

/-- An octet of a body stands at the length of what is before it. -/
theorem u8_append_cons (front back : List Octet) (x : Octet) : u8 (front ++ x :: back) front.length = x.toNat := by
  simp [u8]

theorem octets16_big (v : BitVec 16) : octets16 .big v = [v.extractLsb' 8 8, v.extractLsb' 0 8] := rfl

theorem octets16_little (v : BitVec 16) : octets16 .little v = (octets16 .big v).reverse := rfl

/-- The high octet of a 16-bit value. -/
theorem extract_high_ofNat (n : Nat) : (BitVec.ofNat 16 n).extractLsb' 8 8 = BitVec.ofNat 8 (n / 256) := by
  apply BitVec.eq_of_toNat_eq
  simp only [BitVec.extractLsb'_toNat, BitVec.toNat_ofNat, Nat.shiftRight_eq_div_pow]
  omega

/-- The low octet of a 16-bit value. -/
theorem extract_low_ofNat (n : Nat) : (BitVec.ofNat 16 n).extractLsb' 0 8 = BitVec.ofNat 8 n := by
  apply BitVec.eq_of_toNat_eq
  simp only [BitVec.extractLsb'_toNat, BitVec.toNat_ofNat, Nat.shiftRight_zero]
  omega

theorem toNat_octets (v : BitVec 16) : 256 * (v.extractLsb' 8 8).toNat + (v.extractLsb' 0 8).toNat = v.toNat := by
  have hv := v.isLt
  simp only [BitVec.extractLsb'_toNat, Nat.shiftRight_eq_div_pow]
  omega

/-- A two-octet field is read back as it was written, in both byte orders (R171). -/
theorem u16_octets16 (order : ByteOrder) (v : BitVec 16) (front back : List Octet) :
    u16 order (front ++ octets16 order v ++ back) front.length = v.toNat := by
  have hsecond : ∀ x y : Octet, u8 (front ++ [x, y] ++ back) (front.length + 1) = y.toNat := by
    intro x y
    simpa using u8_append_cons (front ++ [x]) back y
  have hfirst : ∀ x y : Octet, u8 (front ++ [x, y] ++ back) front.length = x.toNat := by
    intro x y
    simpa using u8_append_cons front (y :: back) x
  rw [← toNat_octets v]
  cases order <;> simp only [u16, octets16, hfirst, hsecond]

theorem signed16_toNat (v : BitVec 16) : signed16 v.toNat = v.toInt := by
  rw [signed16, BitVec.toInt_eq_toNat_cond]
  split <;> split <;> omega

theorem ofInt_eq_ofNat_emod (i : Int) : BitVec.ofInt 16 i = BitVec.ofNat 16 (i % 65536).toNat := by
  apply BitVec.eq_of_toNat_eq
  simp only [BitVec.toNat_ofInt, BitVec.toNat_ofNat]
  omega

/-! ## The tables of requests (R142, R157, R172) -/

theorem codeOfOctet_codeOctet (k : RequestCode) : codeOfOctet (codeOctet k) = some k := by cases k <;> rfl

theorem codeOfOctet_eq_some_iff (o : Octet) (k : RequestCode) : codeOfOctet o = some k ↔ codeOctet k = o :=
  ⟨fun h => beq_iff_eq.1 (List.find?_some (p := fun k => codeOctet k == o) h), fun h => h ▸ codeOfOctet_codeOctet k⟩

/-- The body lengths of a request in the table of R172. -/
def bodyLengths : RequestCode → List Nat
  | .postReading => [31]
  | .restoreChart => (List.range 13).map fun i => 132 + 3 * i
  | .stageLot => [57]
  | .stageProfile => [46]
  | .writePattern => [23]
  | .setInstrument => [9]
  | .enrolChart | .setHold | .setWindow => [5]
  | .resumeChart | .readLot => [4]
  | .withdrawChart | .suspendChart | .restartChart | .readChart | .retireLot | .listNotices | .acknowledgeNotice => [3]
  | .readProfile | .setCalendar | .setPortOptions => [2]
  | .promoteLot | .listLots | .promoteProfile | .readPattern | .setLateWindow | .clearFlags | .setFlagEnables => [1]
  | .closeDay | .readCalendar | .readFlags | .identify => [0]

/-- The lengths of a Restore Chart: a chart record with a list of 0 to 12 deviations (R172, R176). -/
theorem admitsLength_restoreChart (n : Nat) :
    admitsLength .restoreChart n = true ↔ n ∈ (List.range 13).map fun i => 132 + 3 * i := by
  simp only [admitsLength, Bool.and_eq_true, decide_eq_true_eq, beq_iff_eq, List.mem_map, List.mem_range]
  constructor
  · rintro ⟨hrange, hmod⟩
    exact ⟨(n - 132) / 3, by omega, by omega⟩
  · rintro ⟨i, hi, rfl⟩
    omega

theorem admitsLength_iff (k : RequestCode) (n : Nat) : admitsLength k n = true ↔ n ∈ bodyLengths k := by
  cases k
  case restoreChart => exact admitsLength_restoreChart n
  all_goals exact beq_iff_eq.trans List.mem_singleton.symm

/-! ## Who is present (R143, R145, R158) -/

theorem queueHead_append_cons {before : List Place} {pl : Place} (after : List Place)
    (hb : ∀ x ∈ before, x.isAnswered = true) (hp : pl.isAnswered = false) :
    queueHead (before ++ pl :: after) = some pl := by
  induction before with
  | nil =>
    rcases pl with ⟨r, _ | _ | rep⟩
    · rfl
    · rfl
    · cases hp
  | cons y rest ih =>
    obtain ⟨hy, hrest⟩ := List.forall_mem_cons.1 hb
    rcases y with ⟨r, _ | _ | rep⟩
    · cases hy
    · cases hy
    · exact ih hrest

theorem queueHead_eq_some_iff (l : List Place) (pl : Place) : queueHead l = some pl ↔
    ∃ before after, l = before ++ pl :: after ∧ (∀ x ∈ before, x.isAnswered = true) ∧ pl.isAnswered = false := by
  constructor
  · intro h
    obtain ⟨before, after, hl, hb, hp, -⟩ := queueHead_eq_some h
    exact ⟨before, after, hl, hb, hp⟩
  · rintro ⟨before, after, rfl, hb, hp⟩
    exact queueHead_append_cons after hb hp

theorem engineServes_eq_false_iff (s : State) (p : Port) :
    engineServes s p = false ↔ ∀ op, s.engine = some op → op.port? ≠ some p := by
  unfold engineServes
  cases s.engine with
  | none => simp
  | some op => simp

/-- A request waits at a port when it is the first not yet answered and no operation of the port is in flight. -/
theorem waitingHead_eq_some_iff (s : State) (p : Port) (r : Request) : waitingHead s p = some r ↔
    (∀ op, s.engine = some op → op.port? ≠ some p) ∧
    ∃ before after, (s.port p).places = before ++ ⟨r, .waiting⟩ :: after ∧ ∀ x ∈ before, x.isAnswered = true := by
  rw [← engineServes_eq_false_iff]
  have hhead : queueHead (s.port p).places = some ⟨r, .waiting⟩ ↔
      ∃ before after, (s.port p).places = before ++ ⟨r, .waiting⟩ :: after ∧ ∀ x ∈ before, x.isAnswered = true := by
    rw [queueHead_eq_some_iff]
    simp only [Place.isAnswered, and_true]
  rw [← hhead]
  unfold waitingHead
  split
  · next hs => simp [hs]
  · next hs =>
    split
    · next r' hq => simp [hs, hq]
    · next hq => simpa [hs] using hq r

theorem present_port_iff (s : State) (p : Port) : present s (.port p) = true ↔
    (∀ op, s.engine = some op → op.port? ≠ some p) ∧
    ∃ before r after, (s.port p).places = before ++ ⟨r, .waiting⟩ :: after ∧
      (∀ x ∈ before, x.isAnswered = true) ∧ isEngineWork r.code = true := by
  have hhead : present s (.port p) = true ↔ ∃ r, waitingHead s p = some r ∧ isEngineWork r.code = true := by
    cases h : waitingHead s p with
    | none => simp [present, h]
    | some r => simp [present, h]
  simp only [hhead, waitingHead_eq_some_iff]
  constructor
  · rintro ⟨r, ⟨hfree, before, after, hplaces, hbefore⟩, hwork⟩
    exact ⟨hfree, before, r, after, hplaces, hbefore, hwork⟩
  · rintro ⟨hfree, before, r, after, hplaces, hbefore, hwork⟩
    exact ⟨r, ⟨hfree, before, after, hplaces, hbefore⟩, hwork⟩

theorem sliceInFlight_eq_false_iff (s : State) : sliceInFlight s = false ↔ ∀ i st, s.engine ≠ some (.slice i st) := by
  unfold sliceInFlight
  split
  · next i st he => simp [he]
  · next hne => simpa using hne

theorem present_sweep_iff (s : State) :
    present s .sweep = true ↔ s.calendar.sweep = .sweeping ∧ ∀ i st, s.engine ≠ some (.slice i st) := by
  rw [← sliceInFlight_eq_false_iff]
  simp [present]

/-- Settles O60: the field laws, the tables row by row, and the characterizations of the head that waits and of who is
present. -/
theorem fieldsReadBack : Obligations.FieldsReadBack := by
  refine ⟨fun o b k i st => ⟨rfl, rfl, PerItem.item_tab _, rfl⟩, rfl, waitingHead_eq_some_iff,
    fun order v front back => ⟨u16_octets16 order v front back, ?signed, octets16_big v, octets16_little v⟩,
    fun order n i rep => ⟨rfl, ?big, ?little, ?twosComplement, rfl⟩, fun r n => ?table,
    fun s => ⟨fun p => ?present, present_sweep_iff s⟩, codeOfOctet_eq_some_iff, rfl, ?numbers⟩
  case signed =>
    rw [s16, u16_octets16, signed16_toNat]
  case big => rw [Field.octets, octets16_big, extract_high_ofNat, extract_low_ofNat]
  case little =>
    rw [Field.octets, octets16_little, octets16_big, extract_high_ofNat, extract_low_ofNat]
    rfl
  case twosComplement => rw [Field.octets, Field.octets, ofInt_eq_ofNat_emod]
  case table =>
    have entry : ∀ k, codeOctet k = codeOctet k ∧ isEngineWork k = isEngineWork k ∧ hasRight r k = hasRight r k ∧
        (admitsLength k n = true ↔ n ∈ bodyLengths k) := fun k => ⟨rfl, rfl, rfl, admitsLength_iff k n⟩
    exact ⟨entry .postReading, entry .enrolChart, entry .withdrawChart, entry .suspendChart, entry .resumeChart,
      entry .restartChart, entry .setHold, entry .setInstrument, entry .readChart, entry .restoreChart,
      entry .stageLot, entry .promoteLot, entry .retireLot, entry .readLot, entry .listLots, entry .stageProfile,
      entry .promoteProfile, entry .readProfile, entry .writePattern, entry .readPattern, entry .listNotices,
      entry .acknowledgeNotice, entry .closeDay, entry .setCalendar, entry .setLateWindow, entry .readCalendar,
      entry .setWindow, entry .setPortOptions, entry .readFlags, entry .clearFlags, entry .setFlagEnables,
      entry .identify⟩
  case present =>
    refine (present_port_iff s p).trans (and_congr_left' ?_)
    cases s.engine with
    | none => simp
    | some op => cases op <;> simp [Operation.port?]
  case numbers =>
    exact ⟨rfl, rfl, rfl, rfl, rfl, rfl, rfl, rfl, rfl, fun _ _ => rfl, fun _ _ => rfl, rfl, rfl, rfl⟩

end Sys2Proof.Machine

namespace Sys2Proof.Machine

/-! ## Commands that write no record

Most of what the ports, the arbiter and the owner blocks do leaves the Reference Table, the Store Table and the staging
records alone, and takes the operation in flight on to no stage but a grant. -/

/-- A change of a port that keeps its staging records. -/
def StagingKept (x y : PortState) : Prop := y.stagingLot = x.stagingLot ∧ y.stagingProfile = x.stagingProfile

theorem stagingKept_refl (x : PortState) : StagingKept x x := ⟨rfl, rfl⟩

theorem StagingKept.trans {x y z : PortState} (h : StagingKept x y) (k : StagingKept y z) : StagingKept x z :=
  ⟨k.1.trans h.1, k.2.trans h.2⟩

/-- A grant's mark on a queue place keeps the staging records (R146). -/
theorem PortKept.staging {x y : PortState} (h : PortKept y x) : StagingKept x y := by
  rw [h.1]
  exact ⟨rfl, rfl⟩

theorem stagingKept_startSending (x : PortState) : StagingKept x (startSending x) := by
  rw [startSending_eq]
  exact ⟨rfl, rfl⟩

theorem stagingKept_answerPlaces (r : Request) (rep : Reply) (x : PortState) :
    StagingKept x (answerPlaces r rep x) := by
  rw [answerPlaces_eq]
  exact ⟨rfl, rfl⟩

theorem stagingKept_refuseFrame (tag : BitVec 2) (code : Octet) (st : Status) (x : PortState) :
    StagingKept x (refuseFrame tag code st x) := by
  unfold refuseFrame
  split
  · exact stagingKept_startSending _
  · exact ⟨rfl, rfl⟩

theorem stagingKept_leaveFrame (counted : Bool) (x : PortState) : StagingKept x (leaveFrame counted x) := by
  cases counted <;> exact ⟨rfl, rfl⟩

theorem stagingKept_replySent (x : PortState) : StagingKept x (replySent x) := by
  unfold replySent
  split
  · exact stagingKept_startSending _
  · exact stagingKept_startSending _
  · exact stagingKept_refl x

theorem stagingKept_octetInError (x : PortState) : StagingKept x (octetInError x) := by
  unfold octetInError
  split <;> exact ⟨rfl, rfl⟩

theorem stagingKept_receiverResumes (x : PortState) : StagingKept x (receiverResumes x) := by
  unfold receiverResumes
  split <;> exact ⟨rfl, rfl⟩

/-- The engine free, or an operation at its grant: nothing is known of a chart yet (R149). -/
inductive AtGrant : Option Operation → Prop
  | free : AtGrant none
  | granted (c : Caller) : AtGrant (some (.granted c))
  | slice : AtGrant (some (.slice 0 .arrive))

/-- No record is written, and the operation in flight stays where it is or another is at its grant. -/
structure RecordsKept (s t : State) : Prop where
  refs : t.refs = s.refs
  stores : t.stores = s.stores
  staging : ∀ p, StagingKept (s.port p) (t.port p)
  engine : t.engine = s.engine ∨ AtGrant t.engine

namespace RecordsKept

theorem refl (s : State) : RecordsKept s s := ⟨rfl, rfl, fun _ => stagingKept_refl _, .inl rfl⟩

theorem trans {s t u : State} (h : RecordsKept s t) (k : RecordsKept t u) : RecordsKept s u where
  refs := k.refs.trans h.refs
  stores := k.stores.trans h.stores
  staging p := (h.staging p).trans (k.staging p)
  engine := by
    rcases k.engine with hk | hk
    · rw [hk]
      exact h.engine
    · exact .inr hk

theorem modPort (s : State) (p : Port) (f : PortState → PortState)
    (hf : ∀ x, StagingKept x (f x) := by exact fun _ => ⟨rfl, rfl⟩) : RecordsKept s (s.modPort p f) where
  refs := refs_modPort s p f
  stores := stores_modPort s p f
  staging q := by
    rw [port_modPort]
    split
    · next hq =>
      subst hq
      exact hf _
    · exact stagingKept_refl _
  engine := .inl (engine_modPort s p f)

theorem raiseAll (f : Flag) (s : State) : RecordsKept s (raiseAll f s) :=
  ⟨rfl, rfl, fun p => by rw [port_raiseAll]; exact ⟨rfl, rfl⟩, .inl rfl⟩

end RecordsKept

/-! ## The arbiter, answers and the end of an operation -/

theorem engine_grantTo (q : Requester) (n : Nat) (s : State) :
    (grantTo q n s).engine = s.engine ∨ AtGrant (grantTo q n s).engine := by
  unfold grantTo
  split
  · split
    · exact .inr (.granted _)
    · exact .inl rfl
  · exact .inr .slice

theorem recordsKept_grantTo (q : Requester) (n : Nat) (s : State) : RecordsKept s (grantTo q n s) :=
  ⟨refs_grantTo q n s, stores_grantTo q n s, fun p => (port_grantTo q n s p).staging, engine_grantTo q n s⟩

theorem recordsKept_arbitrate (s : State) : RecordsKept s (arbitrate s) := by
  unfold arbitrate
  split
  · exact .refl s
  · split
    · exact recordsKept_grantTo _ _ s
    · exact .refl s

theorem recordsKept_arbiter (s : State) (a : Arbiter) : RecordsKept s { s with arbiter := a } :=
  ⟨rfl, rfl, fun p => by rw [port_set_arbiter]; exact stagingKept_refl _, .inl rfl⟩

theorem recordsKept_free (s : State) : RecordsKept s { s with engine := none } :=
  ⟨rfl, rfl, fun p => by rw [port_set_engine]; exact stagingKept_refl _, .inr .free⟩

theorem recordsKept_burstDecision (p : Port) (s : State) : RecordsKept s (burstDecision p s) := by
  unfold burstDecision passOn
  split
  · exact recordsKept_grantTo _ _ s
  · exact (recordsKept_arbiter s _).trans (recordsKept_arbitrate _)

theorem recordsKept_answered (s : State) (p : Port) (r : Request) (rep : Reply) :
    RecordsKept s (s.answered p r rep) :=
  (RecordsKept.modPort s p _ (stagingKept_answerPlaces r rep)).trans (recordsKept_arbitrate _)

theorem recordsKept_finishOperation (c : Caller) (rep : Reply) (s : State) :
    RecordsKept s (finishOperation c rep s) := by
  unfold finishOperation
  refine (recordsKept_free s).trans (RecordsKept.trans ?_ (recordsKept_burstDecision c.port _))
  split
  · exact .refl _
  · exact .modPort _ _ _ (stagingKept_answerPlaces _ _)

/-- The end of an operation leaves the engine free or at the next grant (R147, R150). -/
theorem atGrant_finishOperation (c : Caller) (rep : Reply) (s : State) : AtGrant (finishOperation c rep s).engine := by
  unfold finishOperation
  rcases (recordsKept_burstDecision c.port _).engine with h | h
  · rw [h]
    split
    · exact .free
    · rw [engine_modPort]
      exact .free
  · exact h

/-- Owner work does to the records what the owner block does. -/
theorem recordsKept_serveOwner {code : RequestCode} {p : Port} {s : State}
    {take : ByteOrder → List Octet → State → Reply × State} (h : ∀ o b, RecordsKept s (take o b s).2) :
    RecordsKept s (serveOwner code p take s) := by
  unfold serveOwner
  split
  · split
    · exact (h _ _).trans (recordsKept_answered _ _ _ _)
    · exact .refl s
  · exact .refl s

/-! ## The line -/

theorem recordsKept_onLine {f : State → State} {s : State} (h : RecordsKept s (f s)) : RecordsKept s (onLine f s) := by
  unfold onLine
  split
  · exact .refl s
  · exact h

theorem recordsKept_acceptRequest (p : Port) (tag : BitVec 2) (code : Octet) (body : List Octet) (s : State) :
    RecordsKept s (acceptRequest p tag code body s) := by
  unfold acceptRequest
  split
  · exact .modPort s p _ (stagingKept_refuseFrame tag code _)
  · exact (RecordsKept.modPort s p _).trans (recordsKept_arbitrate _)

theorem recordsKept_endFrame (p : Port) (c : Content) (s : State) : RecordsKept s (endFrame p c s) := by
  unfold endFrame
  dsimp only
  refine (RecordsKept.modPort s p _ (stagingKept_leaveFrame (decodeContent c).1)).trans ?_
  split
  · exact .modPort _ p _
  · exact recordsKept_acceptRequest p _ _ _ _
  · exact .modPort _ p _ fun _ => stagingKept_startSending _

theorem recordsKept_receiveOctet (p : Port) (o : Octet) (s : State) : RecordsKept s (receiveOctet p o s) := by
  unfold receiveOctet
  split
  · split
    · exact .modPort s p _
    · exact .refl s
  · exact .refl s
  · split
    · exact .modPort s p _
    · split
      · split <;> exact .modPort s p _
      · split
        · exact recordsKept_endFrame p _ s
        · split <;> exact .modPort s p _

theorem recordsKept_receiveOctets (p : Port) (octets : List Octet) (s : State) :
    RecordsKept s (receiveOctets p octets s) := by
  induction octets generalizing s with
  | nil => exact .refl s
  | cons o rest ih => exact (recordsKept_receiveOctet p o s).trans (ih _)

theorem recordsKept_frameAbandoned (p : Port) (cause : AbandonCause) (s : State) :
    RecordsKept s (frameAbandoned p cause s) := by
  unfold frameAbandoned
  split
  · exact .modPort s p _
  · exact .refl s

theorem recordsKept_abortFrame (p : Port) (s : State) : RecordsKept s (abortFrame p s) := by
  unfold abortFrame
  split
  · exact .modPort s p _ fun _ => stagingKept_startSending _
  · exact .refl s

end Sys2Proof.Machine

namespace Sys2Proof.Machine

/-! ## Charts on lots (R19) -/

/-- The lot a chart stands on, 0 for none; an OFF chart stands nowhere. -/
def Chart.standing (c : Chart) : Option Nat := if c.enrolled then some c.currentLot else none

theorem standing_eq_some {c : Chart} {k : Nat} : c.standing = some k ↔ c.enrolled = true ∧ c.currentLot = k := by
  unfold Chart.standing
  cases c.enrolled <;> simp

theorem isSome_standing (c : Chart) : c.standing.isSome = c.enrolled := by
  unfold Chart.standing
  cases c.enrolled <;> rfl

theorem standing_of_off {c : Chart} (h : c.enrolled = false) : c.standing = none := by
  unfold Chart.standing
  simp [h]

theorem standing_of_enrolled {c : Chart} (h : c.enrolled = true) : c.standing = some c.currentLot :=
  standing_eq_some.2 ⟨h, rfl⟩

theorem standing_congr {c d : Chart} (he : c.enrolled = d.enrolled) (hl : c.currentLot = d.currentLot) :
    c.standing = d.standing := by
  unfold Chart.standing
  rw [he, hl]

theorem enrolled_of_standing {c d : Chart} (h : c.standing = d.standing) : c.enrolled = d.enrolled := by
  rw [← isSome_standing, ← isSome_standing, h]

theorem enrolled_iff (c : Chart) : c.enrolled = true ↔ c.state ≠ .off := decide_eq_true_iff

theorem enrolled_eq_false_iff (c : Chart) : c.enrolled = false ↔ c.state = .off := by
  unfold Chart.enrolled
  simp

/-- One for a chart that stands on a lot. -/
def standsOn (st : Option Nat) (k : Nat) : Nat := if st = some k then 1 else 0

theorem standsOn_none (k : Nat) : standsOn none k = 0 := rfl

theorem standsOn_some (n k : Nat) : standsOn (some n) k = if k = n then 1 else 0 := by
  simp only [standsOn, Option.some.injEq, eq_comm]

/-- The number of charts of a process that stand on a lot, store by store. -/
def chartsStanding (s : State) (pr : Process) (k : Nat) : Nat :=
  ∑ m ∈ Finset.range Config.stores, standsOn (s.chart m pr).standing k

/-- A sum over the entries listed is the sum over all stores, when the reset entry adds nothing. -/
theorem sum_listed_eq (w : StoreEntry → Nat) (hw : w StoreEntry.reset = 0) {t : StoreTable} (h : storeWf t) :
    (t.map fun x => w x.2).sum = ∑ m ∈ Finset.range Config.stores, w (storeGet t m) := by
  induction t with
  | nil => simp [storeGet, hw]
  | cons y rest ih =>
    obtain ⟨k, e⟩ := y
    obtain ⟨hlow, hrest⟩ := List.pairwise_cons.1 h.1
    have hk : k < Config.stores := (h.2 (k, e) List.mem_cons_self).1
    have hzero : w (storeGet rest k) = 0 := by rw [storeGet_of_lt hlow, hw]
    have hsplit : ∀ m, w (storeGet ((k, e) :: rest) m) = (if k = m then w e else 0) + w (storeGet rest m) := by
      intro m
      by_cases hm : k = m
      · subst hm
        simp [storeGet, hzero]
      · simp [storeGet, hm]
    simp only [hsplit, Finset.sum_add_distrib, Finset.sum_ite_eq, Finset.mem_range, hk, if_true, List.map_cons,
      List.sum_cons]
    rw [ih ⟨hrest, fun x hx => h.2 x (List.mem_cons_of_mem _ hx)⟩]

theorem length_filter_eq_sum {α : Type} (p : α → Bool) (l : List α) :
    (l.filter p).length = (l.map fun x => (p x).toNat).sum := by
  induction l with
  | nil => rfl
  | cons x rest ih => cases hx : p x <;> simp [hx, ih]; omega

theorem chartsOnLot_eq {s : State} (h : StoresOk s) (pr : Process) (k : Nat) :
    chartsOnLot pr k s.stores = chartsStanding s pr k := by
  have hweight : ∀ c : Chart, (c.enrolled && c.currentLot == k).toNat = standsOn c.standing k := by
    intro c
    unfold standsOn Chart.standing
    cases c.enrolled
    · rfl
    · by_cases hk : c.currentLot = k <;> simp [hk]
  unfold chartsOnLot
  rw [length_filter_eq_sum]
  simp only [hweight]
  exact sum_listed_eq (fun e => standsOn (e.chart pr).standing k) (by cases pr <;> rfl) h

/-- The count of a lot follows the one chart that changes its standing. -/
theorem chartsStanding_change {s t : State} {n : Nat} {pr : Process} (hn : n < Config.stores)
    (hother : ∀ m, m ≠ n → (t.chart m pr).standing = (s.chart m pr).standing) (k : Nat) :
    chartsStanding t pr k + standsOn (s.chart n pr).standing k =
      chartsStanding s pr k + standsOn (t.chart n pr).standing k := by
  unfold chartsStanding
  rw [← Finset.add_sum_erase _ _ (Finset.mem_range.2 hn), ← Finset.add_sum_erase _ _ (Finset.mem_range.2 hn),
    Finset.sum_congr rfl fun m hm => congrArg (standsOn · k) (hother m (Finset.ne_of_mem_erase hm))]
  omega

theorem standsOn_le_chartsStanding {s : State} {n : Nat} (hn : n < Config.stores) (pr : Process) (k : Nat) :
    standsOn (s.chart n pr).standing k ≤ chartsStanding s pr k :=
  Finset.single_le_sum (f := fun m => standsOn (s.chart m pr).standing k) (fun _ _ => Nat.zero_le _)
    (Finset.mem_range.2 hn)

/-- A chart that stands somewhere is one of stores 0..1023. -/
theorem store_lt_of_enrolled {s : State} (h : StoresOk s) {n : Nat} {pr : Process}
    (he : (s.chart n pr).enrolled = true) : n < Config.stores := by
  by_contra hn
  have hreset : (s.chart n pr).enrolled = false := by
    unfold State.chart State.entry
    rw [storeGet_outside h hn]
    cases pr <;> rfl
  rw [hreset] at he
  cases he

/-! ## Lots but for their store counts -/

/-- A lot record with its store count taken off. -/
def LotRecord.uncounted (l : LotRecord) : LotRecord := { l with storeCount := 0 }

theorem map_uncounted_adjustCount (n : Nat) (f : Nat → Nat) (lots : List LotRecord) :
    (adjustCount n f lots).map LotRecord.uncounted = lots.map LotRecord.uncounted := by
  unfold adjustCount
  rw [List.map_map]
  refine List.map_congr_left fun l _ => ?_
  by_cases hn : l.number = n <;> simp [LotRecord.uncounted, hn]

theorem lotsOk_map_uncounted (lots : List LotRecord) : LotsOk (lots.map LotRecord.uncounted) ↔ LotsOk lots := by
  simp only [LotsOk, List.pairwise_map, List.length_map, List.forall_mem_map, LotRecord.uncounted]

/-- Both Reference Tables are as before but for store counts, and so are the staging records. -/
structure LotsKept (s t : State) : Prop where
  profile : ∀ pr, (t.table pr).profile = (s.table pr).profile
  lots : ∀ pr, (t.table pr).lots.map LotRecord.uncounted = (s.table pr).lots.map LotRecord.uncounted
  staging : ∀ p, StagingKept (s.port p) (t.port p)

theorem table_of_refs {s t : State} (h : t.refs = s.refs) (pr : Process) : t.table pr = s.table pr := by
  cases pr
  · exact congrArg RefTable.film h
  · exact congrArg RefTable.paper h

theorem lots_of_refs {s t : State} (h : t.refs = s.refs) (pr : Process) : (t.table pr).lots = (s.table pr).lots := by
  rw [table_of_refs h]

theorem table_setTable (s : State) (pr qr : Process) (x : ProcTable) :
    (s.setTable pr x).table qr = if qr = pr then x else s.table qr := by
  cases pr <;> cases qr <;> rfl

namespace LotsKept

theorem of_refs {s t : State} (h : t.refs = s.refs) (hp : ∀ p, StagingKept (s.port p) (t.port p)) : LotsKept s t :=
  ⟨fun pr => by rw [table_of_refs h], fun pr => by rw [table_of_refs h], hp⟩

theorem refl (s : State) : LotsKept s s := of_refs rfl fun _ => stagingKept_refl _

theorem trans {s t u : State} (h : LotsKept s t) (k : LotsKept t u) : LotsKept s u :=
  ⟨fun pr => (k.profile pr).trans (h.profile pr), fun pr => (k.lots pr).trans (h.lots pr),
    fun p => (h.staging p).trans (k.staging p)⟩

theorem adjustCount (s : State) (pr : Process) (n : Nat) (f : Nat → Nat) :
    LotsKept s (s.setTable pr { s.table pr with lots := Machine.adjustCount n f (s.table pr).lots }) where
  profile qr := by
    rw [table_setTable]
    split
    · next h => rw [h]
    · rfl
  lots qr := by
    rw [table_setTable]
    split
    · next h =>
      rw [h]
      exact map_uncounted_adjustCount n f _
    · rfl
  staging p := by
    rw [port_setTable]
    exact stagingKept_refl _

end LotsKept

theorem RecordsKept.lots {s t : State} (h : RecordsKept s t) : LotsKept s t := .of_refs h.refs h.staging

theorem findLot_eq_none_iff (lots : List LotRecord) (n : Nat) : findLot lots n = none ↔ ∀ l ∈ lots, l.number ≠ n := by
  simp [findLot]

theorem findLot_some {lots : List LotRecord} {n : Nat} {l : LotRecord} (h : findLot lots n = some l) :
    l ∈ lots ∧ l.number = n :=
  ⟨List.mem_of_find?_eq_some h, by simpa using List.find?_some h⟩

theorem lotActive_iff (s : State) (pr : Process) (n : Nat) :
    lotActive s pr n = true ↔ ∃ l ∈ (s.table pr).lots, l.number = n := by
  simp [lotActive, findLot]

theorem lotActive_congr {s t : State} {pr : Process}
    (h : (t.table pr).lots.map (·.number) = (s.table pr).lots.map (·.number)) (n : Nat) :
    lotActive t pr n = lotActive s pr n := by
  have hmem : ∀ u : State, lotActive u pr n = true ↔ n ∈ (u.table pr).lots.map (·.number) := by
    intro u
    rw [lotActive_iff, List.mem_map]
  rw [Bool.eq_iff_iff, hmem, hmem, h]

/-! ## The counts are right -/

/-- The Store Table has its form, and each lot's store count is the number of charts that stand on it; a chart stands
on an active lot or on none (R19, R83). -/
structure CountsOk (s : State) : Prop where
  stores : StoresOk s
  numbers : ∀ pr, ∀ l ∈ (s.table pr).lots, 1 ≤ l.number
  counts : ∀ pr, ∀ l ∈ (s.table pr).lots, l.storeCount = chartsStanding s pr l.number
  active : ∀ n pr k, (s.chart n pr).standing = some k → k = 0 ∨ lotActive s pr k = true

theorem storeCountsOk_iff {s : State} (hn : ∀ pr, ∀ l ∈ (s.table pr).lots, 1 ≤ l.number) :
    StoreCountsOk s ↔ CountsOk s ∧ EngineChartOk s := by
  constructor
  · rintro ⟨hs, he, h⟩
    refine ⟨⟨hs, hn, fun pr l hl => ?_, fun n pr k hk => ?_⟩, he⟩
    · rw [← chartsOnLot_eq hs]
      exact (h pr).1 l hl
    · obtain ⟨hen, rfl⟩ := standing_eq_some.1 hk
      exact (h pr).2 n hen
  · rintro ⟨hc, he⟩
    refine ⟨hc.stores, he, fun pr => ⟨fun l hl => ?_, fun n hen => ?_⟩⟩
    · rw [chartsOnLot_eq hc.stores]
      exact hc.counts pr l hl
    · exact hc.active n pr _ (standing_of_enrolled hen)

/-- Charts that stand where they stood, in a table of the same lots, keep the counts right. -/
theorem CountsOk.of_standing {s t : State} (h : CountsOk s) (hs : StoresOk t)
    (hr : ∀ pr, (t.table pr).lots = (s.table pr).lots)
    (hc : ∀ n pr, (t.chart n pr).standing = (s.chart n pr).standing) : CountsOk t where
  stores := hs
  numbers pr l hl := h.numbers pr l (hr pr ▸ hl)
  counts pr l hl := by
    rw [h.counts pr l (hr pr ▸ hl)]
    unfold chartsStanding
    simp only [hc]
  active n pr k hk := by
    rw [hc] at hk
    rw [lotActive_congr (s := s) (by rw [hr pr])]
    exact h.active n pr k hk

/-- A lot record after one chart has gone from where it stood to where it stands. -/
def LotRecord.restand (old new : Option Nat) (l : LotRecord) : LotRecord :=
  { l with storeCount := l.storeCount - standsOn old l.number + standsOn new l.number }

/-- One chart goes from one lot to another, and the two lots' store counts with it, as one step (R19). -/
theorem CountsOk.restand {s t : State} (h : CountsOk s) {n : Nat} {pr : Process} (hn : n < Config.stores)
    (hs : StoresOk t)
    (hlots : ∀ qr, (t.table qr).lots = if qr = pr
      then (s.table pr).lots.map (LotRecord.restand (s.chart n pr).standing (t.chart n pr).standing)
      else (s.table qr).lots)
    (hother : ∀ m qr, ¬ (m = n ∧ qr = pr) → (t.chart m qr).standing = (s.chart m qr).standing)
    (hjoin : ∀ k, (t.chart n pr).standing = some k → k = 0 ∨ lotActive s pr k = true) : CountsOk t := by
  have hnumbers : ∀ qr, (t.table qr).lots.map (·.number) = (s.table qr).lots.map (·.number) := by
    intro qr
    rw [hlots]
    split
    · next hq =>
      subst hq
      rw [List.map_map]
      rfl
    · rfl
  refine ⟨hs, fun qr l hl => ?_, fun qr l hl => ?_, fun m qr k hk => ?_⟩
  · have hmem : l.number ∈ (s.table qr).lots.map (·.number) := hnumbers qr ▸ List.mem_map_of_mem hl
    obtain ⟨x, hx, hxl⟩ := List.mem_map.1 hmem
    exact hxl ▸ h.numbers qr x hx
  · rw [hlots] at hl
    split at hl
    · next hq =>
      subst hq
      obtain ⟨x, hx, rfl⟩ := List.mem_map.1 hl
      have hchange := chartsStanding_change (s := s) (t := t) hn (fun m hm => hother m qr fun hh => hm hh.1) x.number
      have hle := standsOn_le_chartsStanding (s := s) hn qr x.number
      have hx' := h.counts qr x hx
      show x.storeCount - _ + _ = chartsStanding t qr x.number
      omega
    · next hq =>
      rw [h.counts qr l hl]
      unfold chartsStanding
      exact Finset.sum_congr rfl fun m _ => by rw [hother m qr fun hh => hq hh.2]
  · rw [lotActive_congr (hnumbers qr)]
    by_cases hm : m = n ∧ qr = pr
    · obtain ⟨rfl, rfl⟩ := hm
      exact hjoin k hk
    · rw [hother m qr hm] at hk
      exact h.active m qr k hk

end Sys2Proof.Machine

namespace Sys2Proof.Machine

/-! ## Adjustments of store counts (R19) -/

theorem adjustCount_down (n : Nat) (lots : List LotRecord) :
    adjustCount n (· - 1) lots = lots.map (LotRecord.restand (some n) none) := by
  refine List.map_congr_left fun l _ => ?_
  by_cases hn : l.number = n <;> simp [LotRecord.restand, standsOn_none, standsOn_some, hn]

theorem adjustCount_up (n : Nat) (lots : List LotRecord) :
    adjustCount n (· + 1) lots = lots.map (LotRecord.restand none (some n)) := by
  refine List.map_congr_left fun l _ => ?_
  by_cases hn : l.number = n <;> simp [LotRecord.restand, standsOn_none, standsOn_some, hn]

/-- Lot 0 is none: no lot's store count changes with it. -/
theorem restand_zero {lots : List LotRecord} (h : ∀ l ∈ lots, 1 ≤ l.number) :
    lots.map (LotRecord.restand (some 0) none) = lots ∧ lots.map (LotRecord.restand none (some 0)) = lots := by
  have hzero : ∀ l ∈ lots, standsOn (some 0) l.number = 0 := fun l hl => by
    rw [standsOn_some, if_neg (Nat.ne_zero_of_lt (h l hl))]
  constructor <;>
    exact (List.map_congr_left fun l hl => by simp [LotRecord.restand, standsOn_none, hzero l hl]).trans
      (List.map_id lots)

theorem map_restand_restand (old new : Option Nat) (lots : List LotRecord) :
    (lots.map (LotRecord.restand old none)).map (LotRecord.restand none new) =
      lots.map (LotRecord.restand old new) := by
  rw [List.map_map]
  exact List.map_congr_left fun l _ => by simp [LotRecord.restand, standsOn_none]

theorem countDown_eq (pr : Process) (n : Nat) {s : State} (h : ∀ l ∈ (s.table pr).lots, 1 ≤ l.number) :
    countDown pr n s =
      s.setTable pr { s.table pr with lots := (s.table pr).lots.map (LotRecord.restand (some n) none) } := by
  unfold countDown
  split
  · next hn =>
    subst hn
    rw [(restand_zero h).1]
    cases pr <;> rfl
  · rw [adjustCount_down]

theorem countUp_eq (pr : Process) (n : Nat) (s : State) :
    countUp pr n s =
      s.setTable pr { s.table pr with lots := (s.table pr).lots.map (LotRecord.restand none (some n)) } := by
  unfold countUp
  rw [adjustCount_up]

@[simp] theorem stores_countDown (pr : Process) (n : Nat) (s : State) : (countDown pr n s).stores = s.stores := by
  unfold countDown
  split
  · rfl
  · exact stores_setTable s pr _

@[simp] theorem stores_countUp (pr : Process) (n : Nat) (s : State) : (countUp pr n s).stores = s.stores :=
  stores_setTable s pr _

theorem lotsKept_countDown (pr : Process) (n : Nat) (s : State) : LotsKept s (countDown pr n s) := by
  unfold countDown
  split
  · exact .refl s
  · exact .adjustCount s pr n _

theorem lotsKept_countUp (pr : Process) (n : Nat) (s : State) : LotsKept s (countUp pr n s) := .adjustCount s pr n _

theorem storesOk_of_stores {s t : State} (h : t.stores = s.stores) (hs : StoresOk s) : StoresOk t := by
  unfold StoresOk
  rw [h]
  exact hs

theorem chart_of_stores {s t : State} (h : t.stores = s.stores) (n : Nat) (pr : Process) :
    t.chart n pr = s.chart n pr := by
  unfold State.chart State.entry
  rw [h]

/-- An enrolment's question leaves the lots with one chart more on the lot it names (R54, R62). -/
theorem joinLot_eq_some {pr : Process} {n : Nat} {s t : State} (h : joinLot pr n s = some t) :
    LotsKept s t ∧ t.stores = s.stores ∧ (n = 0 ∨ lotActive s pr n = true) ∧
      ((∀ l ∈ (s.table pr).lots, 1 ≤ l.number) → ∀ qr, (t.table qr).lots =
        if qr = pr then (s.table pr).lots.map (LotRecord.restand none (some n)) else (s.table qr).lots) := by
  unfold joinLot at h
  split at h
  · next hn =>
    cases h
    subst hn
    refine ⟨.refl _, rfl, .inl rfl, fun hnum qr => ?_⟩
    rw [(restand_zero hnum).2]
    split
    · next hq => rw [hq]
    · rfl
  · split at h
    · next ha =>
      cases h
      refine ⟨lotsKept_countUp pr n s, stores_countUp pr n s, .inr ha, fun _ qr => ?_⟩
      rw [countUp_eq, table_setTable]
      split <;> rfl
    · cases h

/-- The question of a commit leaves the lots with the chart gone from its lot to the reading's (R83). -/
theorem moveLot_eq_some {pr : Process} {old new : Nat} {s t : State} (h : moveLot pr old new s = some t) :
    LotsKept s t ∧ t.stores = s.stores ∧ lotActive s pr new = true ∧ (new = old → t = s) ∧
      (new ≠ old → (∀ l ∈ (s.table pr).lots, 1 ≤ l.number) → ∀ qr, (t.table qr).lots =
        if qr = pr then (s.table pr).lots.map (LotRecord.restand (some old) (some new)) else (s.table qr).lots) := by
  unfold moveLot at h
  split at h
  · next ha =>
    cases h
    refine ⟨?_, ?_, ha, fun hn => if_pos hn, fun hn hnum qr => ?_⟩
    · split
      · exact .refl s
      · exact (lotsKept_countDown pr old s).trans (lotsKept_countUp pr new _)
    · split
      · rfl
      · rw [stores_countUp, stores_countDown]
    · rw [if_neg hn, countUp_eq, countDown_eq pr old hnum, table_setTable, table_setTable_same]
      split
      · exact map_restand_restand _ _ _
      · next hq => rw [table_setTable_other _ _ _ _ hq]
  · cases h

theorem lotsKept_setChart (s : State) (n : Nat) (pr : Process) (c : Chart) : LotsKept s (s.setChart n pr c) :=
  .of_refs rfl fun p => by rw [port_setChart]; exact stagingKept_refl _

/-- A chart is written on the lot it goes to, in a table whose lots count it there. -/
theorem CountsOk.write {s s' : State} (h : CountsOk s) (hstores : s'.stores = s.stores) {n : Nat} {pr : Process}
    {c : Chart} (hn : n < Config.stores)
    (hlots : ∀ qr, (s'.table qr).lots = if qr = pr
      then (s.table pr).lots.map (LotRecord.restand (s.chart n pr).standing c.standing) else (s.table qr).lots)
    (hjoin : ∀ k, c.standing = some k → k = 0 ∨ lotActive s pr k = true) : CountsOk (s'.setChart n pr c) := by
  have hwf : StoresOk s' := storesOk_of_stores hstores h.stores
  have hself : (s'.setChart n pr c).chart n pr = c := by rw [chart_setChart hwf, if_pos ⟨rfl, hn, rfl⟩]
  refine h.restand (pr := pr) hn (storesOk_setChart n pr c hwf) ?_ (fun m qr hm => ?_) ?_
  · rw [hself]
    exact hlots
  · rw [chart_setChart hwf, if_neg fun hh => hm ⟨hh.1, hh.2.2⟩, chart_of_stores hstores]
  · rw [hself]
    exact hjoin

/-! ## Engine work

What a step of an evaluation or of a visit does: the tables are kept but for store counts, and when the chart of its
reading is not OFF, the counts stay right and no chart is enrolled or withdrawn. -/

/-- Work of the engine on a reading, or on none. -/
structure EngineWork (r : Option Reading) (s t : State) : Prop where
  lots : LotsKept s t
  counts : ReadingEnrolled s r → CountsOk s →
    CountsOk t ∧ ∀ n pr, (t.chart n pr).enrolled = (s.chart n pr).enrolled

theorem readingEnrolled_none (s : State) : ReadingEnrolled s none := fun _ h => nomatch h

theorem ReadingEnrolled.congr {s t : State} {r : Option Reading} (h : ReadingEnrolled s r)
    (he : ∀ n pr, (t.chart n pr).enrolled = (s.chart n pr).enrolled) : ReadingEnrolled t r :=
  fun rd hr => (he _ _).trans (h rd hr)

namespace EngineWork
variable {r : Option Reading} {s t u : State}

theorem refl (r : Option Reading) (s : State) : EngineWork r s s := ⟨.refl s, fun _ h => ⟨h, fun _ _ => rfl⟩⟩

theorem trans (h : EngineWork r s t) (k : EngineWork r t u) : EngineWork r s u where
  lots := h.lots.trans k.lots
  counts hr hs := by
    obtain ⟨ht, he⟩ := h.counts hr hs
    obtain ⟨hu, he'⟩ := k.counts (hr.congr he) ht
    exact ⟨hu, fun n pr => (he' n pr).trans (he n pr)⟩

/-- Work on no reading is work on any. -/
theorem of_none (h : EngineWork none s t) : EngineWork r s t :=
  ⟨h.lots, fun _ => h.counts (readingEnrolled_none s)⟩

/-- Work on the reading of a chart that is not OFF asks nothing more. -/
theorem of_enrolled (h : EngineWork r s t) (hr : ReadingEnrolled s r) : EngineWork none s t :=
  ⟨h.lots, fun _ => h.counts hr⟩

theorem of_records (h : RecordsKept s t) : EngineWork r s t where
  lots := h.lots
  counts _ hs :=
    ⟨hs.of_standing (storesOk_of_stores h.stores hs.stores) (lots_of_refs h.refs) fun n pr => by
        rw [chart_of_stores h.stores],
      fun n pr => by rw [chart_of_stores h.stores]⟩

/-- A chart written on the lot it stands on. -/
theorem setChart {n : Nat} {pr : Process} {c : Chart} (h : c.standing = (s.chart n pr).standing) :
    EngineWork r s (s.setChart n pr c) where
  lots := lotsKept_setChart s n pr c
  counts _ hs := by
    have hstand : ∀ m qr, ((s.setChart n pr c).chart m qr).standing = (s.chart m qr).standing := by
      intro m qr
      rw [chart_setChart hs.stores]
      split
      · next hm =>
        obtain ⟨rfl, -, rfl⟩ := hm
        exact h
      · rfl
    exact ⟨hs.of_standing (storesOk_setChart n pr c hs.stores) (lots_of_refs rfl) hstand,
      fun m qr => enrolled_of_standing (hstand m qr)⟩

theorem modChart {n : Nat} {pr : Process} {f : Chart → Chart}
    (h : (f (s.chart n pr)).standing = (s.chart n pr).standing) : EngineWork r s (s.modChart n pr f) := setChart h

end EngineWork

/-! ## Offers -/

theorem recordsKept_notices (s : State) (q : NoticeQueue) : RecordsKept s { s with notices := q } :=
  ⟨rfl, rfl, fun p => by rw [port_set_notices]; exact stagingKept_refl _, .inl rfl⟩

theorem recordsKept_calendar (s : State) (x : Calendar) : RecordsKept s { s with calendar := x } :=
  ⟨rfl, rfl, fun p => by rw [port_set_calendar]; exact stagingKept_refl _, .inl rfl⟩

theorem recordsKept_patterns (s : State) (x : Vector PatternEntry 16) : RecordsKept s { s with patterns := x } :=
  ⟨rfl, rfl, fun p => by rw [port_set_patterns]; exact stagingKept_refl _, .inl rfl⟩

theorem recordsKept_takeOffer (o : Offer) (s : State) : RecordsKept s (takeOffer o s).2 := by
  unfold takeOffer
  dsimp only
  split
  · exact (recordsKept_notices s _).trans (.raiseAll _ _)
  · split
    · split
      · exact (recordsKept_notices s _).trans ((RecordsKept.raiseAll _ _).trans (.raiseAll _ _))
      · exact (recordsKept_notices s _).trans (.raiseAll _ _)
    · exact .raiseAll _ _

theorem work_takeOffer {r : Option Reading} (o : Offer) (s : State) : EngineWork r s (takeOffer o s).2 :=
  .of_records (recordsKept_takeOffer o s)

theorem work_offerOrOwe {r : Option Reading} (o : Offer) (s : State) : EngineWork r s (offerOrOwe o s).2 := by
  have h := work_takeOffer (r := r) o s
  unfold offerOrOwe
  generalize takeOffer o s = out at h ⊢
  rcases out with ⟨_ | _ | _, t⟩
  · exact h
  · exact h
  · exact h.trans (EngineWork.modChart (s := t) (f := fun c => { c with owed := c.owed.mark o.cls }) rfl)

theorem work_makeOffers {r : Option Reading} (l : List Offer) (id : Nat) (owed : Bool) (s : State) :
    EngineWork r s (makeOffers l id owed s).2 := by
  induction l generalizing id owed s with
  | nil => exact .refl r s
  | cons o rest ih => exact (work_offerOrOwe o s).trans (ih _ _ _)

/-! ## Evaluations -/

theorem work_fillSlot {r : Option Reading} (rd : Reading) (s : State) : EngineWork r s (fillSlot rd s) := .modChart rfl

theorem enrolled_writtenChart (ev : Evaluation) (res : Result) (c : Chart) :
    (writtenChart ev res c).enrolled = c.enrolled := by
  unfold Chart.enrolled writtenChart
  by_cases h : c.state = .overdue <;> simp [h]

/-- A commit's writes: the chart goes to the reading's lot, in its record and in the lots' counts (R83, R85). -/
theorem work_commitWrite {ev : Evaluation} {res : Result} {s t : State} {offers : List Offer}
    (h : commitWrite ev res s = some (offers, t)) : EngineWork (some ev.reading) s t := by
  unfold commitWrite at h
  dsimp only at h
  split at h
  case h_2 => cases h
  case h_1 s' hmove =>
    cases h
    obtain ⟨hkept, hstores, hactive, hsame, hmoved⟩ := moveLot_eq_some hmove
    refine ⟨hkept.trans (lotsKept_setChart s' _ _ _), fun hr hs => ?_⟩
    have hen : (s.chart ev.reading.store ev.reading.process).enrolled = true := hr _ rfl
    have hen' := (enrolled_writtenChart ev res _).trans hen
    by_cases hlot : ev.reading.lot = (s.chart ev.reading.store ev.reading.process).currentLot
    · cases hsame hlot
      exact (EngineWork.setChart (r := none) (standing_congr (enrolled_writtenChart ev res _) hlot)).counts
        (readingEnrolled_none _) hs
    · have hnew : (writtenChart ev res (s.chart ev.reading.store ev.reading.process)).standing =
          some ev.reading.lot := standing_eq_some.2 ⟨hen', rfl⟩
      refine ⟨hs.write hstores (store_lt_of_enrolled hs.stores hen) (fun qr => ?_) (fun k hk => ?_), fun m qr => ?_⟩
      · rw [hnew, standing_of_enrolled hen]
        exact hmoved hlot (hs.numbers _) qr
      · rw [hnew] at hk
        cases hk
        exact .inr hactive
      · rw [chart_setChart (storesOk_of_stores hstores hs.stores)]
        split
        · next hm =>
          obtain ⟨rfl, -, rfl⟩ := hm
          rw [hen', hen]
        · rw [chart_of_stores hstores]

theorem work_finishOffers {r : Option Reading} (ev : Evaluation) (res : Result) (l : List Offer) (id : Nat)
    (owed : Bool) (s : State) : EngineWork r s (finishOffers ev res l id owed s).2 := work_makeOffers l id owed s

theorem work_finishHeld {r : Option Reading} (rd : Reading) (s : State) : EngineWork r s (finishHeld rd s).2 :=
  work_offerOrOwe _ s

theorem work_runCommit (ev : Evaluation) (res : Result) (s : State) :
    EngineWork (some ev.reading) s (runCommit ev res s).2 := by
  unfold runCommit
  split
  · next h => exact (work_commitWrite h).trans (work_finishOffers ..)
  · exact (work_fillSlot _ s).trans (work_finishHeld ..)

theorem work_runEval (st : EvalStage) (s : State) : EngineWork st.reading? s (runEval st s).2 := by
  cases st with
  | computed ev => exact work_runCommit ev _ s
  | classified ev res => exact work_runCommit ev res s
  | offering ev res l id owed => exact work_finishOffers ..
  | parking rd => exact work_finishHeld rd s
  | ending rep => exact .refl _ s

theorem work_evalPart (st : EvalStage) (s : State) : EngineWork st.reading? s (evalPart st s).2 := by
  cases st with
  | computed ev => exact .refl _ s
  | classified ev res =>
    unfold evalPart
    dsimp only
    split
    · next h => exact work_commitWrite h
    · exact work_fillSlot _ s
  | offering ev res l id owed =>
    cases l with
    | nil => exact .refl _ s
    | cons o rest => exact work_offerOrOwe o s
  | parking rd => exact work_finishHeld rd s
  | ending rep => exact .refl _ s

theorem reading_offersLeft (ev : Evaluation) (res : Result) (l : List Offer) (id : Nat) (owed : Bool) :
    (offersLeft ev res l id owed).reading? = some ev.reading ∨ (offersLeft ev res l id owed).reading? = none := by
  cases l
  · exact .inr rfl
  · exact .inl rfl

/-- An evaluation stays on its reading until it ends. -/
theorem reading_evalPart (st : EvalStage) (s : State) :
    (evalPart st s).1.reading? = st.reading? ∨ (evalPart st s).1.reading? = none := by
  cases st with
  | computed ev => exact .inl rfl
  | classified ev res =>
    unfold evalPart
    dsimp only
    split
    · exact reading_offersLeft ..
    · exact .inl rfl
  | offering ev res l id owed =>
    cases l with
    | nil => exact .inr rfl
    | cons o rest => exact reading_offersLeft ..
  | parking rd => exact .inr rfl
  | ending rep => exact .inr rfl

theorem readingEnrolled_evalPart {st : EvalStage} {s t : State} (h : ReadingEnrolled t st.reading?) :
    ReadingEnrolled t (evalPart st s).1.reading? := by
  rcases reading_evalPart st s with hr | hr
  · rw [hr]
    exact h
  · rw [hr]
    exact readingEnrolled_none t

end Sys2Proof.Machine

namespace Sys2Proof.Machine

/-! ## Visits (R132 to R138) -/

theorem work_recheck {r : Option Reading} (rd : Reading) (lot : LotRecord) (profile : Profile) (s : State) :
    EngineWork r s (recheck rd lot profile s).2 := by
  unfold recheck
  split
  · dsimp only
    exact .modChart rfl
  · exact .refl r s

theorem reading_recheck {rd : Reading} {lot : LotRecord} {profile : Profile} {s : State} {ev : Evaluation}
    (h : (recheck rd lot profile s).1 = some ev) : ev.reading = rd := by
  unfold recheck at h
  split at h <;> cases h
  rfl

theorem work_retryStart {r : Option Reading} (n : Nat) (pr : Process) (pk : Parked) (s : State) :
    EngineWork r s (retryStart n pr pk s).2 := by
  unfold retryStart
  split
  · exact .refl r s
  · exact work_recheck ..

theorem reading_retryStart {n : Nat} {pr : Process} {pk : Parked} {s : State} {ev : Evaluation}
    (h : (retryStart n pr pk s).1 = some ev) : ev.reading = parkedReading n pr pk := by
  unfold retryStart at h
  split at h
  · cases h
  · exact reading_recheck h

theorem enrolled_missedChart (limit : Nat) (c : Chart) : (missedChart limit c).enrolled = c.enrolled := by
  unfold Chart.enrolled missedChart
  by_cases h : c.state = .active ∧ limit ≤ missedPlus c
  · simp [h]
  · simp [h]

theorem work_countMiss {r : Option Reading} (n : Nat) (pr : Process) (s : State) :
    EngineWork r s (countMiss n pr s).2 := by
  unfold countMiss
  dsimp only
  split
  · exact .setChart (standing_congr (enrolled_missedChart _ _) rfl)
  · exact .refl r s

theorem work_offerOverdue {r : Option Reading} (n : Nat) (pr : Process) (missed : Nat) (s : State) :
    EngineWork r s (offerOverdue n pr missed s) := work_offerOrOwe _ s

theorem work_missStep {r : Option Reading} (n : Nat) (pr : Process) (s : State) : EngineWork r s (missStep n pr s) := by
  have h := work_countMiss (r := r) n pr s
  unfold missStep
  generalize countMiss n pr s = out at h ⊢
  rcases out with ⟨_ | m, t⟩
  · exact h
  · exact h.trans (work_offerOverdue n pr m t)

theorem work_clearOwed {r : Option Reading} (n : Nat) (pr : Process) (cls : NoticeClass) (s : State) :
    EngineWork r s (clearOwed n pr cls s) := .modChart rfl

theorem work_owedStep {r : Option Reading} (n : Nat) (pr : Process) (cls : NoticeClass) (s : State) :
    EngineWork r s (owedStep n pr cls s) := by
  unfold owedStep
  dsimp only
  split
  · split
    · exact work_clearOwed n pr cls s
    · next o _ =>
      have h := work_takeOffer (r := r) o s
      generalize takeOffer o s = out at h ⊢
      rcases out with ⟨_ | _ | _, t⟩
      · exact h.trans (work_clearOwed n pr cls t)
      · exact h.trans (work_clearOwed n pr cls t)
      · exact h
  · exact .refl r s

theorem work_finishOwed {r : Option Reading} (n : Nat) (pr : Process) (cls : NoticeClass) (s : State) :
    EngineWork r s (finishOwed n pr cls s) := by
  cases cls with
  | condition => exact ((work_owedStep ..).trans (work_owedStep ..)).trans (work_owedStep ..)
  | attendance => exact (work_owedStep ..).trans (work_owedStep ..)
  | held => exact work_owedStep ..

theorem work_finishMiss {r : Option Reading} (n : Nat) (pr : Process) (s : State) :
    EngineWork r s (finishMiss n pr s) := (work_missStep n pr s).trans (work_finishOwed ..)

theorem work_visitFrom (n : Nat) (pr : Process) (start : Option Evaluation × State) :
    EngineWork (start.1.map Evaluation.reading) start.2 (visitFrom n pr start) := by
  rcases start with ⟨_ | ev, s⟩
  · exact work_finishMiss n pr s
  · exact (work_runEval (.computed ev) s).trans (work_finishMiss n pr _)

/-- A retry and what follows it is work on the reading that starts it. -/
theorem work_visitFrom_of {rd : Reading} {n : Nat} {pr : Process} {s : State} {start : Option Evaluation × State}
    (h : EngineWork (some rd) s start.2) (hr : ∀ ev, start.1 = some ev → ev.reading = rd) :
    EngineWork (some rd) s (visitFrom n pr start) := by
  refine h.trans ?_
  have hv := work_visitFrom n pr start
  rcases start with ⟨_ | ev, t⟩
  · exact hv.of_none
  · rw [← hr ev rfl]
    exact hv

theorem readingEnrolled_parked {n : Nat} {pr : Process} {s : State} (pk : Parked) (h : (s.chart n pr).state ≠ .off) :
    ReadingEnrolled s (some (parkedReading n pr pk)) := by
  rintro rd ⟨⟩
  exact (enrolled_iff _).2 h

theorem work_visitChart (n : Nat) (pr : Process) (s : State) : EngineWork none s (visitChart n pr s) := by
  unfold visitChart
  dsimp only
  split
  · exact .refl none s
  · next hstate =>
    split
    · exact work_finishMiss n pr s
    · next pk _ =>
      exact (work_visitFrom_of (work_retryStart n pr pk s) fun ev => reading_retryStart).of_enrolled
        (readingEnrolled_parked pk fun h => hstate (.inl h))

theorem work_finishVisit (n : Nat) (pr : Process) (st : VisitStage) (s : State) :
    EngineWork st.reading? s (finishVisit n pr st s) := by
  cases st with
  | arrive => exact work_visitChart n pr s
  | snapped rd lot profile => exact work_visitFrom_of (work_recheck ..) fun ev => reading_recheck
  | retry st => exact (work_runEval st s).trans (work_finishMiss n pr _)
  | miss => exact work_finishMiss n pr s
  | overdue missed => exact (work_offerOverdue n pr missed s).trans (work_finishOwed n pr .condition _)
  | owed cls => exact work_finishOwed n pr cls s

theorem work_visitCharts (first count : Nat) (s : State) : EngineWork none s (visitCharts first count s) := by
  unfold visitCharts
  generalize List.range' first count = l
  induction l generalizing s with
  | nil => exact .refl none s
  | cons i rest ih => exact (work_visitChart _ _ s).trans (ih _)

theorem retryPart_eq (st : EvalStage) (s : State) : (retryPart st s).2 = (evalPart st s).2 ∧
    ∀ st', (retryPart st s).1 = some st' → (evalPart st s).1 = st' := by
  unfold retryPart
  split
  · next h => simp [h]
  · next h => simp [h]

theorem work_visitPart (n : Nat) (pr : Process) (st : VisitStage) (s : State) :
    EngineWork st.reading? s (visitPart n pr st s).2 := by
  cases st with
  | arrive =>
    unfold visitPart
    dsimp only
    split
    · exact .refl _ s
    · split
      · exact .refl _ s
      · split <;> exact .refl _ s
  | snapped rd lot profile =>
    have h := work_recheck (r := some rd) rd lot profile s
    unfold visitPart
    dsimp only
    generalize recheck rd lot profile s = out at h ⊢
    rcases out with ⟨_ | ev, t⟩ <;> exact h
  | retry st =>
    have h : EngineWork st.reading? s (retryPart st s).2 := (retryPart_eq st s).1 ▸ work_evalPart st s
    unfold visitPart
    dsimp only
    generalize retryPart st s = out at h ⊢
    rcases out with ⟨_ | st', t⟩ <;> exact h
  | miss =>
    have h := work_countMiss (r := none) n pr s
    unfold visitPart
    dsimp only
    generalize countMiss n pr s = out at h ⊢
    rcases out with ⟨_ | m, t⟩ <;> exact h
  | overdue missed => exact work_offerOverdue n pr missed s
  | owed cls => cases cls <;> exact work_owedStep ..

/-- A visit goes on with the reading it has, or takes up the one parked at a chart that is not OFF (R134). -/
theorem readingEnrolled_visitPart {n : Nat} {pr : Process} {st st' : VisitStage} {s : State}
    (h : ReadingEnrolled s st.reading?) (hst : (visitPart n pr st s).1 = some st') :
    ReadingEnrolled s st'.reading? := by
  cases st with
  | arrive =>
    unfold visitPart at hst
    dsimp only at hst
    split at hst
    · cases hst
    · next hstate =>
      split at hst
      · cases hst
        exact readingEnrolled_none s
      · next pk _ =>
        split at hst
        · cases hst
          exact readingEnrolled_none s
        · cases hst
          exact readingEnrolled_parked pk fun hoff => hstate (.inl hoff)
  | snapped rd lot profile =>
    have hr : ∀ ev, (recheck rd lot profile s).1 = some ev → ev.reading = rd := fun ev => reading_recheck
    unfold visitPart at hst
    dsimp only at hst
    generalize recheck rd lot profile s = out at hr hst
    rcases out with ⟨_ | ev, t⟩
    · cases hst
      exact readingEnrolled_none s
    · cases hst
      show ReadingEnrolled s (some ev.reading)
      rw [hr ev rfl]
      exact h
  | retry st =>
    have hr := (retryPart_eq st s).2
    unfold visitPart at hst
    dsimp only at hst
    generalize retryPart st s = out at hr hst
    rcases out with ⟨_ | st'', t⟩
    · cases hst
      exact readingEnrolled_none s
    · cases hst
      show ReadingEnrolled s st''.reading?
      rw [← hr st'' rfl]
      exact readingEnrolled_evalPart h
  | miss =>
    unfold visitPart at hst
    dsimp only at hst
    generalize countMiss n pr s = out at hst
    rcases out with ⟨_ | m, t⟩ <;> cases hst <;> exact readingEnrolled_none s
  | overdue missed =>
    cases hst
    exact readingEnrolled_none s
  | owed cls => cases cls <;> cases hst <;> exact readingEnrolled_none s

theorem recordsKept_advanceSweep (s : State) : RecordsKept s (advanceSweep s) := by
  unfold advanceSweep
  dsimp only
  split
  · exact recordsKept_calendar s _
  · exact (recordsKept_calendar s _).trans (.raiseAll _ _)

theorem engine_advanceSweep (s : State) : (advanceSweep s).engine = s.engine := by
  unfold advanceSweep
  dsimp only
  split <;> rfl

theorem recordsKept_endSlice (s : State) : RecordsKept s (endSlice s) :=
  ((recordsKept_free s).trans (recordsKept_arbiter _ _)).trans
    ((recordsKept_advanceSweep _).trans (recordsKept_arbitrate _))

/-- The end of a slice leaves the engine free or at the next grant (R148). -/
theorem atGrant_endSlice (s : State) : AtGrant (endSlice s).engine := by
  unfold endSlice
  rcases (recordsKept_arbitrate (advanceSweep { s with engine := none, arbiter := ⟨.port .a, none, 0⟩ })).engine
    with h | h
  · rw [h, engine_advanceSweep]
    exact .free
  · exact h

end Sys2Proof.Machine

namespace Sys2Proof.Machine

/-! ## The operation in flight and its chart (R149) -/

theorem engineChartOk_of_atGrant {s : State} (h : AtGrant s.engine) : EngineChartOk s := by
  unfold EngineChartOk
  cases h' : s.engine with
  | none => trivial
  | some op =>
    rw [h'] at h
    cases h with
    | granted c => trivial
    | slice => exact readingEnrolled_none s

/-- The operation in flight asks of the charts only which are OFF. -/
theorem EngineChartOk.congr {s t : State} (h : EngineChartOk s) (he : t.engine = s.engine)
    (hc : ∀ n pr, (t.chart n pr).enrolled = (s.chart n pr).enrolled) : EngineChartOk t := by
  unfold EngineChartOk at h ⊢
  rw [he]
  cases hs : s.engine with
  | none => trivial
  | some op =>
    rw [hs] at h
    cases op with
    | granted c => trivial
    | evaluating c st => exact ReadingEnrolled.congr h hc
    | enrolling c n pr lot => exact ⟨h.1, (hc n pr).trans h.2⟩
    | withdrawing c n pr => exact (hc n pr).trans h
    | restoring c n pr ch => exact ⟨h.1, (hc n pr).trans h.2.1, h.2.2⟩
    | slice i st => exact ReadingEnrolled.congr h hc

theorem engineChartOk_evaluating {s : State} {c : Caller} {st : EvalStage} (h : s.engine = some (.evaluating c st)) :
    EngineChartOk s ↔ ReadingEnrolled s st.reading? := by
  unfold EngineChartOk
  rw [h]

theorem engineChartOk_slice {s : State} {i : Nat} {st : VisitStage} (h : s.engine = some (.slice i st)) :
    EngineChartOk s ↔ ReadingEnrolled s st.reading? := by
  unfold EngineChartOk
  rw [h]

theorem engineChartOk_enrolling {s : State} {c : Caller} {n lot : Nat} {pr : Process}
    (h : s.engine = some (.enrolling c n pr lot)) :
    EngineChartOk s ↔ n < Config.stores ∧ (s.chart n pr).enrolled = false := by
  unfold EngineChartOk
  rw [h]

theorem engineChartOk_withdrawing {s : State} {c : Caller} {n : Nat} {pr : Process}
    (h : s.engine = some (.withdrawing c n pr)) : EngineChartOk s ↔ (s.chart n pr).enrolled = true := by
  unfold EngineChartOk
  rw [h]

theorem engineChartOk_restoring {s : State} {c : Caller} {n : Nat} {pr : Process} {ch : Chart}
    (h : s.engine = some (.restoring c n pr ch)) :
    EngineChartOk s ↔ n < Config.stores ∧ (s.chart n pr).enrolled = false ∧ ch.enrolled = true := by
  unfold EngineChartOk
  rw [h]

/-! ## One operation's step

What a command of the engine, and any command that writes no record, does: the tables are kept but for store counts,
and with right counts and the chart of the operation in flight as its grant found it, both stay so. -/

structure OperationStep (s t : State) : Prop where
  lots : LotsKept s t
  counts : CountsOk s → EngineChartOk s → CountsOk t ∧ EngineChartOk t

theorem EngineChartOk.of_records {s t : State} (h : EngineChartOk s) (hk : RecordsKept s t) : EngineChartOk t := by
  rcases hk.engine with he | he
  · exact h.congr he fun n pr => by rw [chart_of_stores hk.stores]
  · exact engineChartOk_of_atGrant he

theorem CountsOk.of_records {s t : State} (h : CountsOk s) (hk : RecordsKept s t) : CountsOk t :=
  ((EngineWork.of_records hk).counts (readingEnrolled_none s) h).1

namespace OperationStep
variable {s s' t : State}

theorem of_records (h : RecordsKept s t) : OperationStep s t :=
  ⟨h.lots, fun hc he => ⟨hc.of_records h, he.of_records h⟩⟩

theorem refl (s : State) : OperationStep s s := of_records (.refl s)

/-- Work of the engine that comes to the end of its operation. -/
theorem ended {r : Option Reading} (hw : EngineWork r s s') (hr : EngineChartOk s → ReadingEnrolled s r)
    (hk : RecordsKept s' t) (he : AtGrant t.engine) : OperationStep s t :=
  ⟨hw.lots.trans hk.lots, fun hc hs =>
    ⟨((hw.counts (hr hs) hc).1).of_records hk, engineChartOk_of_atGrant he⟩⟩

/-- A change of the tables that keeps the counts right, and the end of the operation with a reply. -/
theorem edited (c : Caller) (rep : Reply) (hl : LotsKept s s') (hc : CountsOk s → EngineChartOk s → CountsOk s') :
    OperationStep s (finishOperation c rep s') :=
  ⟨hl.trans (recordsKept_finishOperation c rep s').lots, fun hs he =>
    ⟨(hc hs he).of_records (recordsKept_finishOperation c rep s'),
      engineChartOk_of_atGrant (atGrant_finishOperation c rep s')⟩⟩

/-- Work on no reading, and the end of the operation with a reply. -/
theorem finished (c : Caller) (rep : Reply) (hw : EngineWork none s s') : OperationStep s (finishOperation c rep s') :=
  ended hw (fun _ => readingEnrolled_none s) (recordsKept_finishOperation c rep s') (atGrant_finishOperation c rep s')

/-- A reply on the state as it is. -/
theorem replied (c : Caller) (rep : Reply) (s : State) : OperationStep s (finishOperation c rep s) :=
  finished c rep (.refl none s)

/-- Work of the engine that leaves the operation at a stage. -/
theorem staged {r : Option Reading} {op : Operation} (hw : EngineWork r s s')
    (hr : EngineChartOk s → ReadingEnrolled s r)
    (hop : EngineChartOk s → (∀ n pr, (s'.chart n pr).enrolled = (s.chart n pr).enrolled) →
      EngineChartOk { s' with engine := some op }) : OperationStep s { s' with engine := some op } where
  lots := hw.lots.trans (.of_refs rfl fun p => by rw [port_set_engine]; exact stagingKept_refl _)
  counts hc hs := by
    obtain ⟨hc', he⟩ := hw.counts (hr hs) hc
    exact ⟨hc'.of_standing hc'.stores (lots_of_refs rfl) fun _ _ => rfl, hop hs he⟩

end OperationStep

/-! ## Readings -/

theorem operationStep_withGranted {code : RequestCode} {f : Caller → State → State} {s : State}
    (h : ∀ c, OperationStep s (f c s)) : OperationStep s (withGranted code f s) := by
  unfold withGranted
  split
  · split
    · exact h _
    · exact .refl s
  · exact .refl s

/-- A reading that passes the checks of its port names a chart that is not OFF (R65, R66). -/
theorem portChecks_eq_ok {c : Caller} {s : State} {rd : Reading} (h : portChecks c s = .ok rd) :
    (s.chart rd.store rd.process).enrolled = true := by
  unfold portChecks at h
  dsimp only at h
  split at h
  · cases h
  · split at h
    · split at h
      · cases h
      · next hoff =>
        split at h
        · cases h
        · cases h
          exact (enrolled_iff _).2 hoff
    · cases h

theorem work_dayRefusal {rd : Reading} {day window : Nat} {s : State} {out : Reply × State}
    (h : dayRefusal rd day window s = some out) : EngineWork none s out.2 := by
  unfold dayRefusal at h
  dsimp only at h
  split at h
  · cases h
    exact .refl none s
  · split at h
    · cases h
      exact .refl none s
    · split at h
      · cases h
        dsimp only
        exact .modChart rfl
      · split at h
        · cases h
          exact .refl none s
        · cases h

theorem operationStep_acceptLot (c : Caller) {rd : Reading} (day window : Nat) {s : State}
    (hr : (s.chart rd.store rd.process).enrolled = true) : OperationStep s (acceptLot c rd day window s) := by
  unfold acceptLot
  split
  · exact .finished c _ ((work_fillSlot rd s).trans (work_finishHeld rd _))
  · refine .staged (.refl none s) (fun _ => readingEnrolled_none s) fun _ _ => ?_
    refine (engineChartOk_evaluating rfl).2 ?_
    rintro _ ⟨⟩
    exact hr

theorem operationStep_acceptReading (c : Caller) (s : State) : OperationStep s (acceptReading c s) := by
  unfold acceptReading
  split
  · exact .replied c _ s
  · next hok =>
    unfold acceptDay
    split
    · next hout => exact .finished c _ (work_dayRefusal hout)
    · exact operationStep_acceptLot c _ _ (portChecks_eq_ok hok)

theorem operationStep_classifyStage (s : State) : OperationStep s (classifyStage s) := by
  unfold classifyStage
  split
  · next he =>
    refine .staged (.refl none s) (fun _ => readingEnrolled_none s) fun hs _ => (engineChartOk_evaluating rfl).2 ?_
    exact (engineChartOk_evaluating he).1 hs
  · exact .refl s

theorem operationStep_commitStage (s : State) : OperationStep s (commitStage s) := by
  unfold commitStage
  split
  · exact .refl s
  · next he =>
    exact .ended (work_runEval _ s) (engineChartOk_evaluating he).1 (recordsKept_finishOperation _ _ _)
      (atGrant_finishOperation _ _ _)
  · exact .refl s

theorem operationStep_commitPart (s : State) : OperationStep s (commitPart s) := by
  unfold commitPart
  split
  · exact .refl s
  · exact .replied _ _ s
  · next he =>
    exact .staged (work_evalPart _ s) (engineChartOk_evaluating he).1 fun hs hkept =>
      (engineChartOk_evaluating rfl).2
        (readingEnrolled_evalPart (((engineChartOk_evaluating he).1 hs).congr hkept))
  · exact .refl s

/-! ## The sweep -/

theorem operationStep_sliceStage (s : State) : OperationStep s (sliceStage s) := by
  unfold sliceStage
  split
  · next he =>
    split
    · exact .ended ((work_finishVisit _ _ _ s).trans (work_visitCharts _ _ _).of_none) (engineChartOk_slice he).1
        (recordsKept_endSlice _) (atGrant_endSlice _)
    · exact .of_records (recordsKept_endSlice s)
  · exact .refl s

theorem operationStep_slicePart (s : State) : OperationStep s (slicePart s) := by
  unfold slicePart
  split
  · next i st he =>
    split
    · have hw := work_visitPart (sliceStore s i) (sliceProcess i) st s
      have hr := fun st' (h : ReadingEnrolled s st.reading?) =>
        readingEnrolled_visitPart (st' := st') (n := sliceStore s i) (pr := sliceProcess i) h
      generalize visitPart (sliceStore s i) (sliceProcess i) st s = out at hw hr ⊢
      rcases out with ⟨_ | st', t⟩
      · exact .staged hw (engineChartOk_slice he).1 fun _ _ =>
          (engineChartOk_slice rfl).2 (readingEnrolled_none _)
      · exact .staged hw (engineChartOk_slice he).1 fun hs hkept =>
          (engineChartOk_slice rfl).2 ((hr st' ((engineChartOk_slice he).1 hs) rfl).congr hkept)
    · exact .of_records (recordsKept_endSlice s)
  · exact .refl s

/-! ## Chart edits -/

theorem namedChart_store_lt {c : Caller} {n : Nat} {pr : Process} (h : namedChart c = some (n, pr)) :
    n < Config.stores := by
  unfold namedChart at h
  dsimp only at h
  split at h
  · next hlt =>
    obtain ⟨_, -, heq⟩ := Option.map_eq_some_iff.1 h
    cases heq
    exact hlt
  · cases h

theorem operationStep_onChart {c : Caller} {f : Nat → Process → State → State} {s : State}
    (h : ∀ n pr, n < Config.stores → OperationStep s (f n pr s)) : OperationStep s (onChart c f s) := by
  unfold onChart
  split
  · next hn => exact h _ _ (namedChart_store_lt hn)
  · exact .replied c _ s

theorem work_modEnrolment (s : State) (f : Nat → Nat) : EngineWork none s (s.modEnrolment f) :=
  .of_records (recordsKept_calendar s _)

theorem operationStep_enrolGrant (c : Caller) {n : Nat} (hn : n < Config.stores) (pr : Process) (s : State) :
    OperationStep s (enrolGrant c n pr s) := by
  unfold enrolGrant
  split
  · next hoff =>
    exact .staged (work_modEnrolment s _) (fun _ => readingEnrolled_none s) fun _ _ =>
      (engineChartOk_enrolling rfl).2 ⟨hn, (enrolled_eq_false_iff _).2 hoff⟩
  · exact .replied c _ s

/-- A chart that was OFF is written on the lot it has joined. -/
theorem operationStep_join {s s' : State} {n lot : Nat} {pr : Process} {ch : Chart} (c : Caller) (rep : Reply)
    (hgrant : EngineChartOk s → n < Config.stores ∧ (s.chart n pr).enrolled = false ∧ ch.enrolled = true)
    (hlot : ch.currentLot = lot) (hjoin : joinLot pr lot s = some s') :
    OperationStep s (finishOperation c rep (s'.setChart n pr ch)) := by
  obtain ⟨hkept, hstores, hactive, hmoved⟩ := joinLot_eq_some hjoin
  refine .edited c rep (hkept.trans (lotsKept_setChart s' n pr ch)) fun hc hs => ?_
  obtain ⟨hn, hoff, hen⟩ := hgrant hs
  have hnew : ch.standing = some lot := standing_eq_some.2 ⟨hen, hlot⟩
  refine hc.write hstores hn (fun qr => ?_) fun k hk => ?_
  · rw [hnew, standing_of_off hoff]
    exact hmoved (hc.numbers pr) qr
  · rw [hnew] at hk
    cases hk
    exact hactive

theorem operationStep_enrolCommit (s : State) : OperationStep s (enrolCommit s) := by
  unfold enrolCommit
  split
  · next he =>
    split
    · next hjoin =>
      refine operationStep_join _ _ (fun hs => ?_) rfl hjoin
      obtain ⟨hn, hoff⟩ := (engineChartOk_enrolling he).1 hs
      exact ⟨hn, hoff, rfl⟩
    · exact .finished _ _ (work_modEnrolment s _)
  · exact .refl s

theorem operationStep_withdrawGrant (c : Caller) (n : Nat) (pr : Process) (s : State) :
    OperationStep s (withdrawGrant c n pr s) := by
  unfold withdrawGrant
  split
  · exact .replied c _ s
  · next hon =>
    exact .staged (.refl none s) (fun _ => readingEnrolled_none s) fun _ _ =>
      (engineChartOk_withdrawing rfl).2 ((enrolled_iff _).2 hon)

/-- A withdrawal before the chart's own record is written: its lot's count, its notices and the enrolment count (R55,
R126). -/
def unlisted (n : Nat) (pr : Process) (s : State) : State :=
  { countDown pr (s.chart n pr).currentLot s with
    notices := removeNotices n pr (countDown pr (s.chart n pr).currentLot s).notices }.modEnrolment (· - 1)

theorem withdrawCommit_at {s : State} {c : Caller} {n : Nat} {pr : Process}
    (he : s.engine = some (.withdrawing c n pr)) : withdrawCommit s =
      finishOperation c ⟨.ok, [.o8 (countNotices n pr s.notices)]⟩ ((unlisted n pr s).setChart n pr Chart.off) := by
  unfold withdrawCommit
  rw [he]
  rfl

theorem table_unlisted (n : Nat) (pr qr : Process) (s : State) :
    (unlisted n pr s).table qr = (countDown pr (s.chart n pr).currentLot s).table qr := by
  cases qr <;> rfl

theorem stores_unlisted (n : Nat) (pr : Process) (s : State) : (unlisted n pr s).stores = s.stores :=
  stores_countDown pr _ s

theorem lotsKept_unlisted (n : Nat) (pr : Process) (s : State) : LotsKept s (unlisted n pr s) :=
  (lotsKept_countDown pr (s.chart n pr).currentLot s).trans
    ((recordsKept_notices _ _).trans (recordsKept_calendar _ _)).lots

/-- A withdrawal takes the chart off its lot, with the lot's count (R55). -/
theorem countsOk_withdrawn {s : State} {n : Nat} {pr : Process} (h : CountsOk s)
    (hen : (s.chart n pr).enrolled = true) : CountsOk ((unlisted n pr s).setChart n pr Chart.off) := by
  refine h.write (stores_unlisted n pr s) (store_lt_of_enrolled h.stores hen) (fun qr => ?_) fun k hk => nomatch hk
  rw [standing_of_enrolled hen, table_unlisted, countDown_eq pr _ (h.numbers pr), table_setTable]
  split <;> rfl

theorem operationStep_withdrawCommit (s : State) : OperationStep s (withdrawCommit s) := by
  unfold withdrawCommit
  split
  · next c n pr he =>
    exact .edited c _ ((lotsKept_unlisted n pr s).trans (lotsKept_setChart _ n pr _)) fun hc hs =>
      countsOk_withdrawn hc ((engineChartOk_withdrawing he).1 hs)
  · exact .refl s

theorem operationStep_suspendTake (c : Caller) (n : Nat) (pr : Process) (s : State) :
    OperationStep s (suspendTake c n pr s) := by
  have hstand : ∀ x : Chart, x.state ≠ .off → (suspendedChart x).standing = x.standing := fun x hx =>
    standing_congr ((enrolled_iff x).2 hx).symm rfl
  unfold suspendTake
  split
  · exact .replied c _ s
  · next h => exact .finished c _ (.modChart (hstand _ (by rw [h]; decide)))
  · next h => exact .finished c _ (.modChart (hstand _ (by rw [h]; decide)))
  · exact .replied c _ s

theorem operationStep_resumeWith (c : Caller) (restart : Bool) (n : Nat) (pr : Process) (s : State) :
    OperationStep s (resumeWith c restart n pr s) := by
  unfold resumeWith
  split
  · exact .replied c _ s
  · next h =>
    refine .finished c _ (.modChart (standing_congr ?_ ?_))
    · rw [(enrolled_iff (s.chart n pr)).2 (by rw [h]; decide)]
      cases restart <;> rfl
    · cases restart <;> rfl
  · exact .replied c _ s
  · exact .replied c _ s

theorem operationStep_resumeTake (c : Caller) (n : Nat) (pr : Process) (s : State) :
    OperationStep s (resumeTake c n pr s) := by
  unfold resumeTake
  split
  · exact operationStep_resumeWith c false n pr s
  · exact operationStep_resumeWith c true n pr s
  · exact .replied c _ s

theorem operationStep_changeEnrolled (c : Caller) {f : Chart → Chart} (hf : ∀ x, (f x).standing = x.standing)
    (n : Nat) (pr : Process) (s : State) : OperationStep s (changeEnrolled c f n pr s) := by
  unfold changeEnrolled
  split
  · exact .replied c _ s
  · exact .finished c _ (.modChart (hf _))

theorem standing_restartedChart (x : Chart) : (restartedChart x).standing = x.standing := rfl

theorem standing_set_hold (m : BitVec 12) (x : Chart) : ({ x with hold := m } : Chart).standing = x.standing := rfl

theorem work_setInstrument (s : State) (n : Nat) (ins : Instrument) :
    EngineWork none s (s.setEntry n { s.entry n with instrument := ins }) where
  lots := .of_refs rfl fun p => by rw [port_setEntry]; exact stagingKept_refl _
  counts _ hs := by
    have hchart : ∀ m qr, (s.setEntry n { s.entry n with instrument := ins }).chart m qr = s.chart m qr := by
      intro m qr
      unfold State.chart
      rw [entry_setEntry hs.stores]
      split
      · next hm =>
        rw [hm.1]
        cases qr <;> rfl
      · rfl
    exact ⟨hs.of_standing (storesOk_setEntry n _ hs.stores) (lots_of_refs rfl) fun m qr => by rw [hchart],
      fun m qr => by rw [hchart]⟩

theorem operationStep_instrumentTake (c : Caller) (s : State) : OperationStep s (instrumentTake c s) := by
  unfold instrumentTake
  dsimp only
  split
  · split
    · exact .finished c _ (work_setInstrument s _ _)
    · exact .replied c _ s
  · exact .replied c _ s

theorem recordValid_eq (order : ByteOrder) (body : List Octet) : recordValid order body =
    ((chartStateOfNumber (u8 body 3)).any (· != .off) && (List.range 12).all (pvValid order body) &&
      resultValid order body && parkedValid (carriedLastDay order body) (carriedParked order body)) := by
  unfold recordValid
  cases chartStateOfNumber (u8 body 3) <;> rfl

/-- A carried record that passes its checks is not OFF (R61). -/
theorem enrolled_carriedChart {order : ByteOrder} {body : List Octet} (h : recordValid order body = true) :
    (carriedChart order body).enrolled = true := by
  rw [recordValid_eq] at h
  simp only [Bool.and_eq_true] at h
  obtain ⟨⟨⟨hstate, -⟩, -⟩, -⟩ := h
  obtain ⟨st, hst, hne⟩ := (Option.any_eq_true _ _).1 hstate
  rw [enrolled_iff]
  show (chartStateOfNumber (u8 body 3)).getD .off ≠ .off
  rw [hst]
  exact bne_iff_ne.1 hne

theorem operationStep_restoreGrant (c : Caller) {n : Nat} (hn : n < Config.stores) (pr : Process) (s : State) :
    OperationStep s (restoreGrant c n pr s) := by
  unfold restoreGrant
  dsimp only
  split
  · exact .replied c _ s
  · next hvalid =>
    split
    · exact .replied c _ s
    · next hoff =>
      split
      · exact .staged (work_modEnrolment s _) (fun _ => readingEnrolled_none s) fun _ _ =>
          (engineChartOk_restoring rfl).2 ⟨hn, (enrolled_eq_false_iff _).2 (not_not.1 hoff),
            enrolled_carriedChart (Bool.eq_true_of_not_eq_false hvalid)⟩
      · exact .replied c _ s

theorem operationStep_restoreCommit (s : State) : OperationStep s (restoreCommit s) := by
  unfold restoreCommit
  split
  · next he =>
    split
    · next hjoin => exact operationStep_join _ _ (engineChartOk_restoring he).1 rfl hjoin
    · exact .finished _ _ (work_modEnrolment s _)
  · exact .refl s

end Sys2Proof.Machine

namespace Sys2Proof.Machine

/-! ## Staged records in range (R23, R24) -/

theorem forall_mem_itemList {α : Type} {x : PerItem α} {P : α → Prop} (h : ∀ p c, P (x.item p c)) :
    ∀ a ∈ x.list, P a := by
  intro a ha
  rw [itemList_eq_flatMap] at ha
  obtain ⟨p, -, hp⟩ := List.mem_flatMap.1 ha
  obtain ⟨c, -, rfl⟩ := List.mem_map.1 hp
  exact h p c

theorem forall_mem_pvList {α : Type} {x : PerPv α} {P : α → Prop} (h : ∀ g c, P (x.pv g c)) : ∀ a ∈ x.list, P a := by
  intro a ha
  rw [pvList_eq_flatMap] at ha
  obtain ⟨g, -, hg⟩ := List.mem_flatMap.1 ha
  obtain ⟨c, -, rfl⟩ := List.mem_map.1 hg
  exact h g c

theorem forall_mem_groupList {α : Type} {x : Groups α} {P : α → Prop} (h : ∀ g, P (x.get g)) :
    ∀ a ∈ x.toList, P a := by
  intro a ha
  simp only [Groups.toList, List.mem_cons, List.not_mem_nil, or_false] at ha
  rcases ha with rfl | rfl | rfl | rfl
  · exact h .base
  · exact h .speed
  · exact h .contrast
  · exact h .top

theorem densities_carriedLotValues (order : ByteOrder) (body : List Octet) (p : Patch) (c : Channel) :
    (carriedLotValues order body).densities.item p c = min 4000 (u16 order body (7 + 2 * itemNumber p c)) := by
  rw [carriedLotValues, PerItem.item_tab, items16, PerItem.item_tab]
  rfl

theorem corrections_carriedLotValues (order : ByteOrder) (body : List Octet) (g : Group) (c : Channel) :
    (carriedLotValues order body).corrections.pv g c =
      max (-500) (min 500 (s16 order body (31 + 2 * pvNumber g c))) := by
  rw [carriedLotValues, PerPv.pv_tab, pvs16, PerPv.pv_tab]
  exact clampInt_eq_max_min (by decide) _

theorem inRange_carriedLotValues (order : ByteOrder) (body : List Octet) : (carriedLotValues order body).inRange := by
  refine ⟨forall_mem_itemList fun p c => ?_, forall_mem_pvList fun g c => ?_, fun d hd => ?_⟩
  · rw [densities_carriedLotValues]
    exact Nat.min_le_left _ _
  · rw [corrections_carriedLotValues]
    omega
  · unfold carriedLotValues at hd
    dsimp only at hd
    split at hd
    · cases hd
      exact u16_le order body 5
    · cases hd

theorem clampNat_eq_max_min {lo hi : Nat} (h : lo ≤ hi) (x : Nat) : clampNat lo hi x = max lo (min hi x) := by
  unfold clampNat
  split
  · omega
  · split <;> omega

theorem RangedField.value_bounds (x : RangedField) (h : x.low ≤ x.high) : x.low ≤ x.value ∧ x.value ≤ x.high := by
  unfold RangedField.value
  rw [clampNat_eq_max_min h]
  omega

theorem limits_carriedProfile (order : ByteOrder) (body : List Octet) (g : Group) :
    (carriedProfile order body).limits.get g =
      ⟨(clField order body g).value, (alField order body g).value, (slField order body g).value,
        (dlField order body g).value, (rbField order body g).value⟩ := Groups.get_tab _ g

theorem inRange_carriedProfile (order : ByteOrder) (body : List Octet) : (carriedProfile order body).inRange := by
  refine ⟨forall_mem_groupList fun g => ?_, (weightField body).value_bounds (by decide : 1 ≤ 16),
    (runLengthField body).value_bounds (by decide : 2 ≤ 15), (overdueField body).value_bounds (by decide : 1 ≤ 15)⟩
  rw [limits_carriedProfile]
  exact ⟨(clField order body g).value_bounds (by decide : 1 ≤ 1000),
    (alField order body g).value_bounds (by decide : 1 ≤ 1000),
    (slField order body g).value_bounds (by decide : 1 ≤ 2000),
    (dlField order body g).value_bounds (by decide : 1 ≤ 1000),
    ((rbField order body g).value_bounds (by decide : 0 ≤ 1000)).2⟩

/-! ## Lots found after a promotion or a retirement (R27, R30) -/

theorem findLot_cons (x : LotRecord) (rest : List LotRecord) (n : Nat) :
    findLot (x :: rest) n = if x.number = n then some x else findLot rest n := by
  unfold findLot
  by_cases h : x.number = n
  · rw [List.find?_cons_of_pos (by simpa using h), if_pos h]
  · rw [List.find?_cons_of_neg (by simpa using h), if_neg h]

theorem findLot_insertLot (lots : List LotRecord) (l : LotRecord) (n : Nat) :
    findLot (insertLot lots l) n = if n = l.number then some l else findLot lots n := by
  induction lots with
  | nil =>
    rw [insertLot, findLot_cons]
    simp only [eq_comm]
  | cons x rest ih =>
    unfold insertLot
    split
    · rw [findLot_cons]
      simp only [eq_comm]
    · split
      · next heq =>
        simp only [findLot_cons, heq, eq_comm]
        split <;> rfl
      · next hne =>
        rw [findLot_cons, ih, findLot_cons]
        by_cases hx : x.number = n
        · rw [if_pos hx, if_pos hx, if_neg fun hn => hne (hn.symm.trans hx.symm)]
        · rw [if_neg hx, if_neg hx]

theorem findLot_removeLot (lots : List LotRecord) (n k : Nat) :
    findLot (removeLot lots n) k = if k = n then none else findLot lots k := by
  induction lots with
  | nil => simp [removeLot, findLot]
  | cons x rest ih =>
    have hcons : removeLot (x :: rest) n = if x.number = n then removeLot rest n else x :: removeLot rest n := by
      by_cases hx : x.number = n <;> simp [removeLot, hx]
    rw [hcons, findLot_cons]
    split
    · next hx =>
      rw [ih, hx]
      split
      · rfl
      · next hk => rw [if_neg fun h => hk h.symm]
    · next hx =>
      rw [findLot_cons, ih]
      split
      · next hk => rw [if_neg fun h => hx (hk.trans h)]
      · rfl

theorem length_insertLot_le (lots : List LotRecord) (l : LotRecord) :
    (insertLot lots l).length ≤ lots.length + 1 := by
  induction lots with
  | nil => exact Nat.le_refl _
  | cons x rest ih =>
    unfold insertLot
    split
    · exact Nat.le_refl _
    · split
      · exact Nat.le_succ _
      · exact Nat.succ_le_succ ih

/-- A replacement keeps the number of lots (R27). -/
theorem length_insertLot_of_found {lots : List LotRecord} {l x : LotRecord}
    (hs : lots.Pairwise fun x y => x.number < y.number) (h : findLot lots l.number = some x) :
    (insertLot lots l).length = lots.length := by
  induction lots with
  | nil => cases h
  | cons y rest ih =>
    obtain ⟨hlow, hrest⟩ := List.pairwise_cons.1 hs
    rw [findLot_cons] at h
    unfold insertLot
    split
    · next hlt =>
      rw [if_neg (Nat.ne_of_gt hlt)] at h
      obtain ⟨hmem, hnum⟩ := findLot_some h
      have := hlow x hmem
      omega
    · split
      · rfl
      · next hne =>
        rw [if_neg fun hh => hne hh.symm] at h
        simp only [List.length_cons, ih hrest h]

theorem nextRevision_bounds (r : Nat) : 1 ≤ nextRevision r ∧ nextRevision r ≤ 255 := by
  unfold nextRevision
  split <;> omega

theorem promotedLot_of_none {lots : List LotRecord} {st : StagedLot} (h : findLot lots st.number = none) :
    promotedLot lots st = ⟨st.number, 1, st.values, 0⟩ := by
  unfold promotedLot
  rw [h]

theorem promotedLot_of_some {lots : List LotRecord} {st : StagedLot} {x : LotRecord}
    (h : findLot lots st.number = some x) :
    promotedLot lots st = ⟨st.number, nextRevision x.revision, st.values, x.storeCount⟩ := by
  unfold promotedLot
  rw [h]

theorem number_promotedLot (lots : List LotRecord) (st : StagedLot) : (promotedLot lots st).number = st.number := by
  unfold promotedLot
  split <;> rfl

theorem values_promotedLot (lots : List LotRecord) (st : StagedLot) : (promotedLot lots st).values = st.values := by
  unfold promotedLot
  split <;> rfl

theorem revision_promotedLot (lots : List LotRecord) (st : StagedLot) :
    1 ≤ (promotedLot lots st).revision ∧ (promotedLot lots st).revision ≤ 255 := by
  unfold promotedLot
  split
  · exact nextRevision_bounds _
  · exact ⟨Nat.le_refl 1, (by decide : 1 ≤ 255)⟩

/-- A promotion that is not refused keeps the lots in form (R17, R18, R25, R27). -/
theorem lotsOk_promote {lots : List LotRecord} {st : StagedLot} (h : LotsOk lots)
    (hn : 1 ≤ st.number ∧ st.number ≤ Config.max16) (hv : st.values.inRange)
    (hc : inconsistentChannel st.values = none) (hfull : tableFull lots st.number = false) :
    LotsOk (insertLot lots (promotedLot lots st)) := by
  obtain ⟨hsorted, hlength, hlots⟩ := h
  refine ⟨insertLot_sorted _ hsorted, ?_, fun l hl => ?_⟩
  · cases hfound : findLot lots st.number with
    | some x => rwa [length_insertLot_of_found hsorted (number_promotedLot lots st ▸ hfound)]
    | none =>
      have hlt : ¬ Config.lotsPerProcess ≤ lots.length := by simpa [tableFull, hfound] using hfull
      have := length_insertLot_le lots (promotedLot lots st)
      omega
  · rcases mem_insertLot hl with rfl | hl
    · rw [number_promotedLot, values_promotedLot]
      exact ⟨hn, revision_promotedLot lots st, hv, hc⟩
    · exact hlots l hl

theorem lotsOk_removeLot {lots : List LotRecord} (h : LotsOk lots) (n : Nat) : LotsOk (removeLot lots n) := by
  obtain ⟨hsorted, hlength, hlots⟩ := h
  exact ⟨hsorted.filter _, (List.length_filter_le _ _).trans hlength, fun l hl => hlots l (List.mem_of_mem_filter hl)⟩

/-! ## What each command does to the records

One lemma for all commands; the invariants of the Reference Table and of the store counts are read off it. -/

/-- What a command can do to the Reference Table, the Store Table, the staging records and the operation in flight. -/
inductive RecordsEffect (s : State) : State → Prop
  | step {t : State} (h : OperationStep s t) : RecordsEffect s t
  | deviceReset : RecordsEffect s (deviceResetState s)
  | linkReset (p : Port) :
    RecordsEffect s { s.modPort p linkResetPort with engine := s.engine.map (discardFor p) }
  | stagedLot {t : State} (p : Port) (st : StagedLot) (hn : 1 ≤ st.number ∧ st.number ≤ Config.max16)
    (hv : st.values.inRange) (h : RecordsKept (s.modPort p fun ps => { ps with stagingLot := some st }) t) :
    RecordsEffect s t
  | stagedProfile {t : State} (p : Port) (st : StagedProfile) (hv : st.values.inRange)
    (h : RecordsKept (s.modPort p fun ps => { ps with stagingProfile := some st }) t) : RecordsEffect s t
  | promotedLot {t : State} (p : Port) (st : StagedLot) (hst : (s.port p).stagingLot = some st)
    (hc : inconsistentChannel st.values = none) (hfull : tableFull (s.table st.process).lots st.number = false)
    (h : RecordsKept (s.setTable st.process { s.table st.process with
      lots := insertLot (s.table st.process).lots (promotedLot (s.table st.process).lots st) }) t) : RecordsEffect s t
  | retiredLot {t : State} (pr : Process) (n : Nat) (l : LotRecord) (hl : findLot (s.table pr).lots n = some l)
    (hcount : l.storeCount = 0)
    (h : RecordsKept (s.setTable pr { s.table pr with lots := removeLot (s.table pr).lots n }) t) : RecordsEffect s t
  | promotedProfile {t : State} (p : Port) (st : StagedProfile) (hst : (s.port p).stagingProfile = some st)
    (hc : inconsistentGroup st.values = none) (hp : plotsNothing st.values = false)
    (h : RecordsKept (s.setTable st.process { s.table st.process with
      profile := ⟨st.values, nextRevision (s.table st.process).profile.revision⟩ }) t) : RecordsEffect s t

namespace RecordsEffect
variable {s t : State}

theorem of_records (h : RecordsKept s t) : RecordsEffect s t := .step (.of_records h)

/-- Owner work that is taken leaves what its block makes of the records; with none to take nothing changes. -/
theorem of_serveOwner {code : RequestCode} {p : Port} {take : ByteOrder → List Octet → State → Reply × State}
    (h : ∀ o b t, RecordsKept (take o b s).2 t → RecordsEffect s t) : RecordsEffect s (serveOwner code p take s) := by
  unfold serveOwner
  split
  · split
    · exact h _ _ _ (recordsKept_answered _ _ _ _)
    · exact of_records (.refl s)
  · exact of_records (.refl s)

end RecordsEffect

theorem effect_stageLot (p : Port) (s : State) : RecordsEffect s (serveOwner .stageLot p (stageLotTake p) s) := by
  refine .of_serveOwner fun o b t h => ?_
  unfold stageLotTake at h
  split at h
  · exact .of_records h
  · split at h
    · exact .of_records h
    · next hlot =>
      exact .stagedLot p _ ⟨Nat.one_le_iff_ne_zero.2 hlot, u16_le o b 1⟩ (inRange_carriedLotValues o b) h

theorem effect_stageProfile (p : Port) (s : State) :
    RecordsEffect s (serveOwner .stageProfile p (stageProfileTake p) s) := by
  refine .of_serveOwner fun o b t h => ?_
  unfold stageProfileTake at h
  split at h
  · exact .of_records h
  · exact .stagedProfile p _ (inRange_carriedProfile o b) h

theorem effect_promoteLot (p : Port) (s : State) :
    RecordsEffect s (serveOwner .promoteLot p (promoteLotTake p) s) := by
  refine .of_serveOwner fun o b t h => ?_
  unfold promoteLotTake at h
  split at h
  · exact .of_records h
  · next st hst =>
    unfold promoteStaged at h
    dsimp only at h
    split at h
    · exact .of_records h
    · next hc =>
      split at h
      · exact .of_records h
      · split at h
        · exact .of_records h
        · next hfull =>
          exact .promotedLot p st hst hc (Bool.eq_false_of_not_eq_true hfull) (.trans (.raiseAll _ _) h)

theorem effect_retireLot (p : Port) (s : State) : RecordsEffect s (serveOwner .retireLot p retireLotTake s) := by
  refine .of_serveOwner fun o b t h => ?_
  unfold retireLotTake at h
  split at h
  · exact .of_records h
  · split at h
    · exact .of_records h
    · next l hl =>
      split at h
      · exact .of_records h
      · next hcount => exact .retiredLot _ _ l hl (Nat.eq_zero_of_not_pos hcount) (.trans (.raiseAll _ _) h)

theorem effect_promoteProfile (p : Port) (s : State) :
    RecordsEffect s (serveOwner .promoteProfile p (promoteProfileTake p) s) := by
  refine .of_serveOwner fun o b t h => ?_
  unfold promoteProfileTake at h
  split at h
  · exact .of_records h
  · next st hst =>
    unfold promoteStagedProfile at h
    dsimp only at h
    split at h
    · exact .of_records h
    · next hc =>
      split at h
      · exact .of_records h
      · next hp =>
        split at h
        · exact .promotedProfile p st hst hc (Bool.eq_false_of_not_eq_true hp) (.trans (.raiseAll _ _) h)
        · exact .of_records h

end Sys2Proof.Machine

namespace Sys2Proof.Machine

/-! ## Owner work that writes no record -/

theorem recordsKept_readLotTake (p : Port) (o : ByteOrder) (b : List Octet) (s : State) :
    RecordsKept s (readLotTake p o b s).2 := by
  unfold readLotTake
  split
  · split
    · exact .refl s
    · split <;> exact .refl s
  · split <;> exact .refl s
  · exact .refl s

theorem recordsKept_listLotsTake (o : ByteOrder) (b : List Octet) (s : State) :
    RecordsKept s (listLotsTake o b s).2 := by
  unfold listLotsTake
  split <;> exact .refl s

theorem recordsKept_readProfileTake (p : Port) (o : ByteOrder) (b : List Octet) (s : State) :
    RecordsKept s (readProfileTake p o b s).2 := by
  unfold readProfileTake
  split
  · split <;> exact .refl s
  · split <;> exact .refl s
  · exact .refl s

theorem recordsKept_writePatternTake (o : ByteOrder) (b : List Octet) (s : State) :
    RecordsKept s (writePatternTake o b s).2 := by
  unfold writePatternTake
  split
  · split
    · exact .refl s
    · split
      · exact (recordsKept_patterns s _).trans (.raiseAll _ _)
      · exact .refl s
  · exact .refl s

theorem recordsKept_readPatternTake (o : ByteOrder) (b : List Octet) (s : State) :
    RecordsKept s (readPatternTake o b s).2 := by
  unfold readPatternTake
  split <;> exact .refl s

theorem recordsKept_listNoticesTake (o : ByteOrder) (b : List Octet) (s : State) :
    RecordsKept s (listNoticesTake o b s).2 := by
  unfold listNoticesTake
  dsimp only
  split <;> exact .refl s

theorem recordsKept_acknowledgeTake (o : ByteOrder) (b : List Octet) (s : State) :
    RecordsKept s (acknowledgeTake o b s).2 := by
  unfold acknowledgeTake
  dsimp only
  split
  · exact .refl s
  · split
    · exact .refl s
    · split
      · exact recordsKept_notices s _
      · exact .refl s

theorem recordsKept_closeDayTake (o : ByteOrder) (b : List Octet) (s : State) :
    RecordsKept s (closeDayTake o b s).2 := by
  unfold closeDayTake
  split
  · exact .refl s
  · split
    · exact (recordsKept_calendar s _).trans (recordsKept_arbitrate _)
    · exact .refl s

theorem recordsKept_setCalendarTake (o : ByteOrder) (b : List Octet) (s : State) :
    RecordsKept s (setCalendarTake o b s).2 := by
  unfold setCalendarTake
  split
  · exact .refl s
  · split
    · exact .refl s
    · exact recordsKept_calendar s _

theorem recordsKept_setWindowTake (o : ByteOrder) (b : List Octet) (s : State) :
    RecordsKept s (setWindowTake o b s).2 := by
  unfold setWindowTake
  dsimp only
  split
  · exact .refl s
  · split
    · dsimp only
      exact .modPort s _ _
    · exact .refl s

theorem recordsKept_setPortOptionsTake (p : Port) (o : ByteOrder) (b : List Octet) (s : State) :
    RecordsKept s (setPortOptionsTake p o b s).2 := by
  unfold setPortOptionsTake
  split
  · exact .refl s
  · dsimp only
    exact .modPort s p _

theorem recordsKept_clearFlagsTake (p : Port) (o : ByteOrder) (b : List Octet) (s : State) :
    RecordsKept s (clearFlagsTake p o b s).2 := by
  unfold clearFlagsTake changeFlags
  dsimp only
  exact .modPort s p _

theorem recordsKept_setFlagEnablesTake (p : Port) (o : ByteOrder) (b : List Octet) (s : State) :
    RecordsKept s (setFlagEnablesTake p o b s).2 := by
  unfold setFlagEnablesTake changeFlags
  dsimp only
  exact .modPort s p _

theorem recordsKept_releasePorts (a b c : Rights) (s : State) :
    RecordsKept s { s with
      resetHeld := false
      ports := ⟨releasePort a s.ports.a, releasePort b s.ports.b, releasePort c s.ports.c⟩ } :=
  ⟨rfl, rfl, fun p => by cases p <;> exact ⟨rfl, rfl⟩, .inl rfl⟩

theorem effect_resetRelease (a b c : Rights) (s : State) :
    ∃ t, execResetRelease a b c s = .next t ∧ RecordsEffect s t := by
  refine ⟨_, rfl, .of_records ?_⟩
  split
  · exact recordsKept_releasePorts a b c s
  · exact .refl s

theorem effect_linkReset (p : Port) (s : State) : RecordsEffect s (onLine (linkReset p) s) := by
  unfold onLine
  split
  · exact .of_records (.refl s)
  · unfold linkReset
    split
    · exact .of_records (.refl s)
    · exact .linkReset p

/-! ## All commands -/

/-- Every command answers a next state, with one of the effects of `RecordsEffect`. -/
theorem exec_effect (i : Instr) (s : State) : ∃ t, exec i s = .next t ∧ RecordsEffect s t := by
  have owner : ∀ {code : RequestCode} {p : Port} {take : ByteOrder → List Octet → State → Reply × State},
      (∀ o b, RecordsKept s (take o b s).2) → RecordsEffect s (serveOwner code p take s) :=
    fun h => .of_records (recordsKept_serveOwner h)
  have line : ∀ {f : State → State}, RecordsKept s (f s) → RecordsEffect s (onLine f s) :=
    fun h => .of_records (recordsKept_onLine h)
  have granted : ∀ {code : RequestCode} {f : Caller → State → State},
      (∀ c, OperationStep s (f c s)) → RecordsEffect s (withGranted code f s) :=
    fun h => .step (operationStep_withGranted h)
  have onChart : ∀ {code : RequestCode} {f : Caller → Nat → Process → State → State},
      (∀ c n pr, n < Config.stores → OperationStep s (f c n pr s)) →
        RecordsEffect s (withGranted code (fun c => onChart c (f c)) s) :=
    fun h => granted fun c => operationStep_onChart (h c)
  cases i with
  | deviceReset => exact ⟨_, rfl, .deviceReset⟩
  | resetRelease a b c => exact effect_resetRelease a b c s
  | linkReset p => exact ⟨_, rfl, effect_linkReset p s⟩
  | frameAbandoned p cause => exact ⟨_, rfl, line (recordsKept_frameAbandoned p cause s)⟩
  | frameReceived p octets => exact ⟨_, rfl, line (recordsKept_receiveOctets p _ s)⟩
  | abortFrame p => exact ⟨_, rfl, line (recordsKept_abortFrame p s)⟩
  | replySent p => exact ⟨_, rfl, line (.modPort s p _ stagingKept_replySent)⟩
  | frameStart p => exact ⟨_, rfl, line (recordsKept_receiveOctet p _ s)⟩
  | octetInError p => exact ⟨_, rfl, line (.modPort s p _ stagingKept_octetInError)⟩
  | receiverResumes p => exact ⟨_, rfl, line (.modPort s p _ stagingKept_receiverResumes)⟩
  | postReading => exact ⟨_, rfl, granted fun c => operationStep_acceptReading c s⟩
  | classify => exact ⟨_, rfl, .step (operationStep_classifyStage s)⟩
  | evaluationCommit x =>
    cases x with
    | whole => exact ⟨_, rfl, .step (operationStep_commitStage s)⟩
    | part => exact ⟨_, rfl, .step (operationStep_commitPart s)⟩
  | enrolChart => exact ⟨_, rfl, onChart fun c n pr hn => operationStep_enrolGrant c hn pr s⟩
  | enrolChartCommit => exact ⟨_, rfl, .step (operationStep_enrolCommit s)⟩
  | withdrawChart => exact ⟨_, rfl, onChart fun c n pr _ => operationStep_withdrawGrant c n pr s⟩
  | withdrawChartCommit => exact ⟨_, rfl, .step (operationStep_withdrawCommit s)⟩
  | suspendChart => exact ⟨_, rfl, onChart fun c n pr _ => operationStep_suspendTake c n pr s⟩
  | resumeChart => exact ⟨_, rfl, onChart fun c n pr _ => operationStep_resumeTake c n pr s⟩
  | restartChart =>
    exact ⟨_, rfl, onChart fun c n pr _ => operationStep_changeEnrolled c standing_restartedChart n pr s⟩
  | setHold => exact ⟨_, rfl, onChart fun c n pr _ => operationStep_changeEnrolled c (standing_set_hold _) n pr s⟩
  | setInstrument => exact ⟨_, rfl, granted fun c => operationStep_instrumentTake c s⟩
  | readChart => exact ⟨_, rfl, onChart fun c n pr _ => .replied c _ s⟩
  | restoreChart => exact ⟨_, rfl, onChart fun c n pr hn => operationStep_restoreGrant c hn pr s⟩
  | restoreChartCommit => exact ⟨_, rfl, .step (operationStep_restoreCommit s)⟩
  | sweepSlice x =>
    cases x with
    | whole => exact ⟨_, rfl, .step (operationStep_sliceStage s)⟩
    | part => exact ⟨_, rfl, .step (operationStep_slicePart s)⟩
  | stageLot p => exact ⟨_, rfl, effect_stageLot p s⟩
  | promoteLot p => exact ⟨_, rfl, effect_promoteLot p s⟩
  | retireLot p => exact ⟨_, rfl, effect_retireLot p s⟩
  | stageProfile p => exact ⟨_, rfl, effect_stageProfile p s⟩
  | promoteProfile p => exact ⟨_, rfl, effect_promoteProfile p s⟩
  | readLot p => exact ⟨_, rfl, owner fun o b => recordsKept_readLotTake p o b s⟩
  | listLots p => exact ⟨_, rfl, owner fun o b => recordsKept_listLotsTake o b s⟩
  | readProfile p => exact ⟨_, rfl, owner fun o b => recordsKept_readProfileTake p o b s⟩
  | writePattern p => exact ⟨_, rfl, owner fun o b => recordsKept_writePatternTake o b s⟩
  | readPattern p => exact ⟨_, rfl, owner fun o b => recordsKept_readPatternTake o b s⟩
  | listNotices p => exact ⟨_, rfl, owner fun o b => recordsKept_listNoticesTake o b s⟩
  | acknowledgeNotice p => exact ⟨_, rfl, owner fun o b => recordsKept_acknowledgeTake o b s⟩
  | closeDay p => exact ⟨_, rfl, owner fun o b => recordsKept_closeDayTake o b s⟩
  | setCalendar p => exact ⟨_, rfl, owner fun o b => recordsKept_setCalendarTake o b s⟩
  | setLateWindow p => exact ⟨_, rfl, owner fun _ _ => recordsKept_calendar s _⟩
  | readCalendar p => exact ⟨_, rfl, owner fun _ _ => .refl s⟩
  | setWindow p => exact ⟨_, rfl, owner fun o b => recordsKept_setWindowTake o b s⟩
  | setPortOptions p => exact ⟨_, rfl, owner fun o b => recordsKept_setPortOptionsTake p o b s⟩
  | readFlags p => exact ⟨_, rfl, owner fun _ _ => .refl s⟩
  | clearFlags p => exact ⟨_, rfl, owner fun o b => recordsKept_clearFlagsTake p o b s⟩
  | setFlagEnables p => exact ⟨_, rfl, owner fun o b => recordsKept_setFlagEnablesTake p o b s⟩
  | identify p => exact ⟨_, rfl, owner fun _ _ => .refl s⟩

/-- A property of the state that does not look at the queue of commands is kept by every step when every effect keeps
it. -/
theorem step_keeps {P Q : State → Prop} (hidle : ∀ s, P s → Q s) (hqueue : ∀ s q, P s → P { s with pending := q })
    (heffect : ∀ s t, P s → RecordsEffect s t → Q t) {s t : State} (hs : P s) (h : step s = .next t) : Q t := by
  unfold step at h
  split at h
  · cases h
    exact hidle s hs
  · next c rest _ =>
    obtain ⟨u, hu, he⟩ := exec_effect c { s with pending := rest }
    cases hu.symm.trans h
    exact heffect _ _ (hqueue s rest hs) he

/-! ## The Reference Table stays in range -/

theorem StagingOk.kept {x y : PortState} (h : StagingOk x) (hk : StagingKept x y) : StagingOk y := by
  unfold StagingOk
  rw [hk.1, hk.2]
  exact h

theorem ReferenceOk.of_lots {s t : State} (h : ReferenceOk s) (hk : LotsKept s t) : ReferenceOk t := by
  refine ⟨fun pr => ⟨?_, ?_⟩, fun p => (h.2 p).kept (hk.staging p)⟩
  · rw [← lotsOk_map_uncounted, hk.lots pr, lotsOk_map_uncounted]
    exact (h.1 pr).1
  · rw [hk.profile pr]
    exact (h.1 pr).2

theorem ReferenceOk.setTable {s : State} (h : ReferenceOk s) {pr : Process} {x : ProcTable} (hx : TableOk x) :
    ReferenceOk (s.setTable pr x) := by
  refine ⟨fun qr => ?_, fun p => by rw [port_setTable]; exact h.2 p⟩
  rw [table_setTable]
  split
  · exact hx
  · exact h.1 qr

theorem ReferenceOk.modPort {s : State} (h : ReferenceOk s) {p : Port} {f : PortState → PortState}
    (hf : StagingOk (f (s.port p))) : ReferenceOk (s.modPort p f) := by
  refine ⟨fun pr => by rw [table_of_refs (refs_modPort s p f)]; exact h.1 pr, fun q => ?_⟩
  rw [port_modPort]
  split
  · exact hf
  · exact h.2 q

theorem stagingOk_none {x : PortState} (hl : x.stagingLot = none) (hp : x.stagingProfile = none) : StagingOk x := by
  unfold StagingOk
  rw [hl, hp]
  exact ⟨fun _ h => (nomatch h), fun _ h => (nomatch h)⟩

/-- The default profiles are in range (R21). -/
theorem referenceOk_deviceReset (s : State) : ReferenceOk (deviceResetState s) := by
  refine ⟨fun pr => ?_, fun p => ?_⟩
  · show TableOk (State.table State.reset pr)
    cases pr <;> decide
  · rw [port_deviceResetState]
    exact stagingOk_none rfl rfl

theorem referenceOk_effect {s t : State} (h : ReferenceOk s) (he : RecordsEffect s t) : ReferenceOk t := by
  cases he with
  | step hk => exact h.of_lots hk.lots
  | deviceReset => exact referenceOk_deviceReset s
  | linkReset p =>
    refine (h.modPort (p := p) (f := linkResetPort) (stagingOk_none rfl rfl)).of_lots (.of_refs rfl fun q => ?_)
    rw [port_set_engine]
    exact stagingKept_refl _
  | stagedLot p st hn hv hk =>
    refine (h.modPort (p := p) ⟨fun x hx => ?_, (h.2 p).2⟩).of_lots hk.lots
    cases hx
    exact ⟨hn, hv⟩
  | stagedProfile p st hv hk =>
    refine (h.modPort (p := p) ⟨(h.2 p).1, fun x hx => ?_⟩).of_lots hk.lots
    cases hx
    exact hv
  | promotedLot p st hst hc hfull hk =>
    obtain ⟨hn, hv⟩ := (h.2 p).1 st hst
    obtain ⟨hlots, hprofile⟩ := h.1 st.process
    refine ReferenceOk.of_lots ?_ hk.lots
    exact h.setTable ⟨lotsOk_promote hlots hn hv hc hfull, hprofile⟩
  | retiredLot pr n l hl hcount hk =>
    obtain ⟨hlots, hprofile⟩ := h.1 pr
    refine ReferenceOk.of_lots ?_ hk.lots
    exact h.setTable ⟨lotsOk_removeLot hlots n, hprofile⟩
  | promotedProfile p st hst hc hp hk =>
    obtain ⟨hlots, hprofile⟩ := h.1 st.process
    refine ReferenceOk.of_lots ?_ hk.lots
    exact h.setTable ⟨hlots, (h.2 p).2 st hst, hc, hp, (nextRevision_bounds _).2⟩

theorem LotsKept.set_pending (s : State) (q : List Instr) : LotsKept s { s with pending := q } :=
  .of_refs rfl fun p => by rw [port_set_pending]; exact stagingKept_refl _

/-- Settles O54: each effect that a command can have on the records keeps the tables and the staging records in
range. -/
theorem referenceTableStaysInRange : Obligations.ReferenceTableStaysInRange := fun _ _ hs h =>
  step_keeps (fun _ h => h) (fun s q h => h.of_lots (.set_pending s q)) (fun _ _ => referenceOk_effect) hs h

/-! ## The store counts stay right -/

theorem one_le_number {s : State} (h : ReferenceOk s) (pr : Process) : ∀ l ∈ (s.table pr).lots, 1 ≤ l.number :=
  fun l hl => ((h.1 pr).1.2.2 l hl).1.1

theorem chartsStanding_eq_zero {s : State} {pr : Process} {k : Nat}
    (h : ∀ m, (s.chart m pr).standing ≠ some k) : chartsStanding s pr k = 0 :=
  Finset.sum_eq_zero fun m _ => if_neg (h m)

/-- A table whose lots are rewritten, no chart moving: the new counts are right and no lot in use has gone. -/
theorem CountsOk.setTable {s : State} (h : CountsOk s) {pr : Process} {x : ProcTable}
    (hlots : ∀ l ∈ x.lots, 1 ≤ l.number ∧ l.storeCount = chartsStanding s pr l.number)
    (hactive : ∀ m k, (s.chart m pr).standing = some k → k = 0 ∨ (findLot x.lots k).isSome = true) :
    CountsOk (s.setTable pr x) := by
  have hchart : ∀ m qr, (s.setTable pr x).chart m qr = s.chart m qr := chart_of_stores (stores_setTable s pr x)
  have hcount : ∀ qr k, chartsStanding (s.setTable pr x) qr k = chartsStanding s qr k := fun qr k => by
    unfold chartsStanding
    simp only [hchart]
  refine ⟨storesOk_of_stores (stores_setTable s pr x) h.stores, fun qr l hl => ?_, fun qr l hl => ?_,
    fun m qr k hk => ?_⟩
  · rw [table_setTable] at hl
    split at hl
    · exact (hlots l hl).1
    · exact h.numbers qr l hl
  · rw [hcount]
    rw [table_setTable] at hl
    split at hl
    · next hq => exact hq ▸ (hlots l hl).2
    · exact h.counts qr l hl
  · rw [hchart] at hk
    unfold lotActive
    rw [table_setTable]
    split
    · next hq =>
      subst hq
      exact hactive m k hk
    · exact h.active m qr k hk

/-- A lot that enters the table has no chart yet; one that is replaced keeps its charts (R27). -/
theorem countsOk_promote {s : State} (h : CountsOk s) {st : StagedLot} (hn : 1 ≤ st.number) :
    CountsOk (s.setTable st.process { s.table st.process with
      lots := insertLot (s.table st.process).lots (promotedLot (s.table st.process).lots st) }) := by
  refine h.setTable (fun l hl => ?_) fun m k hk => ?_
  · rcases mem_insertLot hl with rfl | hl
    · rw [number_promotedLot]
      refine ⟨hn, ?_⟩
      cases hfound : findLot (s.table st.process).lots st.number with
      | some x =>
        obtain ⟨hmem, hnum⟩ := findLot_some hfound
        rw [promotedLot_of_some hfound, ← hnum]
        exact h.counts _ x hmem
      | none =>
        rw [promotedLot_of_none hfound, chartsStanding_eq_zero fun m hm => ?_]
        rcases h.active m _ _ hm with h0 | hact
        · omega
        · rw [lotActive, hfound] at hact
          cases hact
    · exact ⟨h.numbers _ l hl, h.counts _ l hl⟩
  · refine (h.active m _ k hk).imp_right fun hact => ?_
    rw [findLot_insertLot]
    split
    · rfl
    · exact hact

/-- A lot with store count 0 has no chart on it when it leaves the table (R30). -/
theorem countsOk_retire {s : State} (h : CountsOk s) {pr : Process} {n : Nat} {l : LotRecord}
    (hl : findLot (s.table pr).lots n = some l) (hcount : l.storeCount = 0) :
    CountsOk (s.setTable pr { s.table pr with lots := removeLot (s.table pr).lots n }) := by
  obtain ⟨hmem, rfl⟩ := findLot_some hl
  refine h.setTable (fun x hx => ?_) fun m k hk => ?_
  · have hx' := List.mem_of_mem_filter hx
    exact ⟨h.numbers pr x hx', h.counts pr x hx'⟩
  · refine (h.active m pr k hk).imp_right fun hact => ?_
    rw [findLot_removeLot]
    split
    · next hkl =>
      have hm := store_lt_of_enrolled h.stores (standing_eq_some.1 hk).1
      have hle := standsOn_le_chartsStanding (s := s) hm pr l.number
      rw [← h.counts pr l hmem, hcount, hk, hkl, standsOn_some, if_pos rfl] at hle
      omega
    · exact hact

theorem countsOk_deviceReset (s : State) : CountsOk (deviceResetState s) where
  stores := storesOk_reset
  numbers pr l hl := by
    rw [lots_deviceResetState] at hl
    cases hl
  counts pr l hl := by
    rw [lots_deviceResetState] at hl
    cases hl
  active n pr k hk := by
    rw [chart_deviceResetState] at hk
    cases hk

/-- A link reset marks the reply of the operation in flight, and takes nothing of what it has found (R161). -/
theorem EngineChartOk.discard {s : State} (h : EngineChartOk s) (p : Port) {f : PortState → PortState} :
    EngineChartOk { s.modPort p f with engine := s.engine.map (discardFor p) } := by
  have hchart : ∀ n pr, ({ s.modPort p f with engine := s.engine.map (discardFor p) } : State).chart n pr =
      s.chart n pr := chart_of_stores (stores_modPort s p f)
  unfold EngineChartOk at h ⊢
  cases hs : s.engine with
  | none => trivial
  | some op =>
    rw [hs] at h
    cases op with
    | granted c => trivial
    | evaluating c st => exact ReadingEnrolled.congr h fun n pr => congrArg Chart.enrolled (hchart n pr)
    | enrolling c n pr lot => exact ⟨h.1, (hchart n pr).symm ▸ h.2⟩
    | withdrawing c n pr => exact (congrArg Chart.enrolled (hchart n pr)).trans h
    | restoring c n pr ch => exact ⟨h.1, (hchart n pr).symm ▸ h.2.1, h.2.2⟩
    | slice i st => exact ReadingEnrolled.congr h fun n pr => congrArg Chart.enrolled (hchart n pr)

theorem counts_effect {s t : State} (href : ReferenceOk s) (hc : CountsOk s) (hs : EngineChartOk s)
    (he : RecordsEffect s t) : CountsOk t ∧ EngineChartOk t := by
  have table : ∀ {pr : Process} {x : ProcTable}, EngineChartOk (s.setTable pr x) := fun {pr x} =>
    hs.congr (engine_setTable s pr x) fun n qr => by rw [chart_of_stores (stores_setTable s pr x)]
  have port : ∀ {p : Port} {f : PortState → PortState}, CountsOk (s.modPort p f) ∧ EngineChartOk (s.modPort p f) :=
    fun {p f} => ⟨hc.of_standing (storesOk_of_stores (stores_modPort s p f) hc.stores)
        (lots_of_refs (refs_modPort s p f)) fun n pr => by rw [chart_of_stores (stores_modPort s p f)],
      hs.congr (engine_modPort s p f) fun n pr => by rw [chart_of_stores (stores_modPort s p f)]⟩
  have records : ∀ {u : State}, CountsOk u ∧ EngineChartOk u → RecordsKept u t → CountsOk t ∧ EngineChartOk t :=
    fun hu hk => ⟨hu.1.of_records hk, hu.2.of_records hk⟩
  cases he with
  | step hk => exact hk.counts hc hs
  | deviceReset => exact ⟨countsOk_deviceReset s, trivial⟩
  | linkReset p =>
    exact ⟨(port (p := p) (f := linkResetPort)).1.of_standing
      (storesOk_of_stores (stores_modPort s p _) hc.stores) (lots_of_refs rfl) fun _ _ => rfl, hs.discard p⟩
  | stagedLot p st hn hv hk => exact records port hk
  | stagedProfile p st hv hk => exact records port hk
  | promotedLot p st hst hcons hfull hk =>
    exact records ⟨countsOk_promote hc ((href.2 p).1 st hst).1.1, table⟩ hk
  | retiredLot pr n l hl hcount hk => exact records ⟨countsOk_retire hc hl hcount, table⟩ hk
  | promotedProfile p st hst hcons hp hk =>
    refine records ⟨?_, table⟩ hk
    exact hc.setTable (fun l hl => ⟨hc.numbers _ l hl, hc.counts _ l hl⟩) fun m k => hc.active m _ k

theorem storeCountsOk_effect {s t : State} (href : ReferenceOk s) (h : StoreCountsOk s) (he : RecordsEffect s t) :
    StoreCountsOk t := by
  obtain ⟨hc, hs⟩ := (storeCountsOk_iff (one_le_number href)).1 h
  exact (storeCountsOk_iff (one_le_number (referenceOk_effect href he))).2 (counts_effect href hc hs he)

/-- Settles O59: the count of a lot is the number of stores whose chart stands on it, and each effect that a command
can have on the records moves the two together. -/
theorem storeCountsAreRight : Obligations.StoreCountsAreRight := fun _ _ href hs h =>
  step_keeps (P := fun s => ReferenceOk s ∧ StoreCountsOk s) (fun _ h => h.2)
    (fun s q h => ⟨h.1.of_lots (.set_pending s q), h.2⟩)
    (fun _ _ h he => storeCountsOk_effect h.1 h.2 he) ⟨href, hs⟩ h

end Sys2Proof.Machine

namespace Sys2Proof.Machine

/-! ## Owner work on the request at the head (R143) -/

/-- Owner work is known by what its block makes of the request at the head. -/
theorem serveOwner_eq {code : RequestCode} {p : Port} {s t : State} {r : Request} {rep : Reply}
    {take : ByteOrder → List Octet → State → Reply × State} (h : AtHead s p code r)
    (ht : take (s.port p).byteOrder r.body s = (rep, t)) : serveOwner code p take s = t.answered p r rep := by
  rw [serveOwner_at h.1 h.2, ht]

theorem namedLot_eq_none {o : ByteOrder} {b : List Octet} {i : Nat} (h : 1 < u8 b i ∨ u16 o b (i + 1) = 0) :
    namedLot o b i = none := by
  unfold namedLot
  rcases h with hp | hn
  · rw [processOfNumber_eq_none hp]
    exact ite_self none
  · exact if_pos hn

theorem namedLot_eq_some {o : ByteOrder} {b : List Octet} {i : Nat} {pr : Process} (hp : u8 b i = processNumber pr)
    (hn : u16 o b (i + 1) ≠ 0) : namedLot o b i = some (pr, u16 o b (i + 1)) := by
  rw [namedLot, if_neg hn, hp, processOfNumber_processNumber, Option.map_some]

/-! ## Stage Lot (R23) -/

theorem stageLotTake_refused (p : Port) {o : ByteOrder} {b : List Octet} (s : State)
    (h : 1 < u8 b 0 ∨ u16 o b 1 = 0) : stageLotTake p o b s = (.bare .badValue, s) := by
  unfold stageLotTake
  rcases h with hp | hn
  · rw [processOfNumber_eq_none hp]
    rfl
  · split
    · rfl
    · exact if_pos hn

theorem stageLotTake_staged (p : Port) {o : ByteOrder} {b : List Octet} {pr : Process} (s : State)
    (hp : u8 b 0 = processNumber pr) (hn : u16 o b 1 ≠ 0) : stageLotTake p o b s =
      (clampReply [] (clampedLotFields o b),
        s.modPort p fun ps => { ps with stagingLot := some ⟨pr, u16 o b 1, carriedLotValues o b⟩ }) := by
  unfold stageLotTake
  rw [hp, processOfNumber_processNumber]
  exact if_neg hn

theorem inRange_eq_false_iff (lo hi x : Int) : inRange lo hi x = false ↔ x < lo ∨ hi < x := by
  unfold inRange
  simp only [Bool.and_eq_false_iff, decide_eq_false_iff_not, Int.not_le]

theorem clampedLotFields_ascending (o : ByteOrder) (b : List Octet) :
    (clampedLotFields o b).Pairwise (· < ·) := by
  refine List.pairwise_append.2 ⟨List.pairwise_lt_range.filter _,
    List.pairwise_map.2 ((List.pairwise_lt_range.filter _).imp fun h => Nat.add_lt_add_left h 16),
    fun i hi j hj => ?_⟩
  have hi' := List.mem_range.1 (List.mem_of_mem_filter hi)
  obtain ⟨k, -, rfl⟩ := List.mem_map.1 hj
  omega

theorem mem_clampedLotFields (o : ByteOrder) (b : List Octet) (i : Nat) :
    i ∈ clampedLotFields o b ↔
      (i < 12 ∧ 4000 < u16 o b (7 + 2 * i)) ∨
      (16 ≤ i ∧ i < 28 ∧ (s16 o b (31 + 2 * (i - 16)) < -500 ∨ 500 < s16 o b (31 + 2 * (i - 16)))) := by
  simp only [clampedLotFields, List.mem_append, List.mem_filter, List.mem_map, List.mem_range, Bool.not_eq_true',
    decide_eq_true_eq, inRange_eq_false_iff]
  refine or_congr Iff.rfl ⟨?_, ?_⟩
  · rintro ⟨k, ⟨hk, hclamp⟩, rfl⟩
    rw [Nat.add_sub_cancel_left]
    exact ⟨by omega, by omega, hclamp⟩
  · rintro ⟨hlow, hhigh, hclamp⟩
    exact ⟨i - 16, ⟨by omega, hclamp⟩, by omega⟩

/-- Settles O19: the staged record holds the carried values, each brought to the nearer end of its range. -/
theorem stageLotKeepsTheClampedRecord : Obligations.StageLotKeepsTheClampedRecord := by
  intro s p r h o b
  refine ⟨fun hbad => congrArg _ (serveOwner_eq h (stageLotTake_refused p s hbad)), fun pr hp hn => ?_⟩
  exact ⟨_, clampedLotFields o b, congrArg _ (serveOwner_eq h (stageLotTake_staged p s hp hn)), rfl, rfl,
    densities_carriedLotValues o b, corrections_carriedLotValues o b, rfl, clampedLotFields_ascending o b,
    mem_clampedLotFields o b⟩

/-! ## Promote Lot (R25 to R27) -/

theorem channelConsistent_iff (v : LotValues) (c : Channel) : channelConsistent v c = true ↔
    v.densities.item .dmin c ≤ v.densities.item .low c ∧ v.densities.item .low c ≤ v.densities.item .high c := by
  simp only [channelConsistent, Bool.and_eq_true, decide_eq_true_eq]

/-- The check of R25, channel by channel. -/
theorem inconsistentChannel_eq (v : LotValues) : inconsistentChannel v =
    if channelConsistent v .r then
      if channelConsistent v .g then if channelConsistent v .b then none else some .b else some .g
    else some .r := by
  unfold inconsistentChannel allChannels
  cases hr : channelConsistent v .r <;> cases hg : channelConsistent v .g <;> cases hb : channelConsistent v .b <;>
    simp [hr, hg, hb]

theorem promoteLotTake_none {p : Port} (o : ByteOrder) (b : List Octet) {s : State}
    (h : (s.port p).stagingLot = none) : promoteLotTake p o b s = (.bare .noStaging, s) := by
  unfold promoteLotTake
  rw [h]
  rfl

theorem promoteLotTake_some {p : Port} (o : ByteOrder) (b : List Octet) {s : State} {st : StagedLot}
    (h : (s.port p).stagingLot = some st) : promoteLotTake p o b s = promoteStaged (u8 b 0) st s := by
  unfold promoteLotTake
  rw [h]

section Promote
variable {s : State} {st : StagedLot} {expected : Nat}

theorem promoteStaged_inconsistent {c : Channel} (h : inconsistentChannel st.values = some c) :
    promoteStaged expected st s = (⟨.inconsistent, [.o8 c.number]⟩, s) := by
  unfold promoteStaged
  rw [h]

theorem promoteStaged_mismatch (h : inconsistentChannel st.values = none)
    (hr : revisionAdmits (s.table st.process).lots st.number expected = false) : promoteStaged expected st s =
      (⟨.revisionMismatch, [.o8 (currentRevision (s.table st.process).lots st.number)]⟩, s) := by
  unfold promoteStaged
  rw [h]
  exact if_pos hr

theorem promoteStaged_full (h : inconsistentChannel st.values = none)
    (hr : revisionAdmits (s.table st.process).lots st.number expected = true)
    (hf : tableFull (s.table st.process).lots st.number = true) :
    promoteStaged expected st s = (.bare .tableFull, s) := by
  unfold promoteStaged
  rw [h]
  exact (if_neg (by rw [hr]; decide)).trans (if_pos hf)

theorem promoteStaged_taken (h : inconsistentChannel st.values = none)
    (hr : revisionAdmits (s.table st.process).lots st.number expected = true)
    (hf : tableFull (s.table st.process).lots st.number = false) : promoteStaged expected st s =
      (⟨.ok, [.o8 (processNumber st.process), .o16 st.number,
          .o8 (promotedLot (s.table st.process).lots st).revision]⟩,
        raiseAll .table (s.setTable st.process { s.table st.process with
          lots := insertLot (s.table st.process).lots (promotedLot (s.table st.process).lots st) })) := by
  unfold promoteStaged
  rw [h]
  exact (if_neg (by rw [hr]; decide)).trans (if_neg (by rw [hf]; decide))

end Promote

theorem revisionAdmits_of_none {lots : List LotRecord} {n : Nat} (h : findLot lots n = none) (expected : Nat) :
    revisionAdmits lots n expected = decide (expected = 0) := by
  unfold revisionAdmits
  rw [h]
  rfl

theorem revisionAdmits_of_some {lots : List LotRecord} {n : Nat} {l : LotRecord} (h : findLot lots n = some l)
    (expected : Nat) : revisionAdmits lots n expected = decide (expected ≠ 0 ∧ expected = l.revision) := by
  unfold revisionAdmits
  rw [h, Bool.eq_iff_iff]
  simp

theorem currentRevision_of_none {lots : List LotRecord} {n : Nat} (h : findLot lots n = none) :
    currentRevision lots n = 0 := by
  unfold currentRevision
  rw [h]

theorem currentRevision_of_some {lots : List LotRecord} {n : Nat} {l : LotRecord} (h : findLot lots n = some l) :
    currentRevision lots n = l.revision := by
  unfold currentRevision
  rw [h]

theorem tableFull_of_none {lots : List LotRecord} {n : Nat} (h : findLot lots n = none) :
    tableFull lots n = decide (16 ≤ lots.length) := by
  unfold tableFull
  rw [h]
  rfl

theorem tableFull_of_some {lots : List LotRecord} {n : Nat} {l : LotRecord} (h : findLot lots n = some l) :
    tableFull lots n = false := by
  unfold tableFull
  rw [h]
  rfl

/-- Settles O20: a promotion that passes its checks inserts the promoted record, which is found under its number and
leaves every other lot to be found as before. -/
theorem promoteLotReplacesTheRecord : Obligations.PromoteLotReplacesTheRecord := by
  intro s p r st h hst hc lots hsorted hadmits
  have hchecks : revisionAdmits lots st.number (u8 r.body 0) = true ∧ tableFull lots st.number = false := by
    rcases hadmits with ⟨hnone, h0, hlt⟩ | ⟨l, hsome, hne, heq⟩
    · rw [revisionAdmits_of_none hnone, tableFull_of_none hnone]
      exact ⟨decide_eq_true h0, decide_eq_false (Nat.not_le.2 hlt)⟩
    · rw [revisionAdmits_of_some hsome, tableFull_of_some hsome]
      exact ⟨decide_eq_true ⟨hne, heq⟩, rfl⟩
  refine ⟨promotedLot lots st, insertLot lots (promotedLot lots st),
    congrArg _ (serveOwner_eq h ((promoteLotTake_some _ _ hst).trans (promoteStaged_taken hc hchecks.1 hchecks.2))),
    number_promotedLot lots st, values_promotedLot lots st, fun hnone => ?_, fun x hx => ?_,
    insertLot_sorted _ hsorted, fun n => ?_⟩
  · rw [promotedLot_of_none hnone]
    exact ⟨rfl, rfl⟩
  · rw [promotedLot_of_some hx]
    exact ⟨rfl, rfl⟩
  · rw [findLot_insertLot, number_promotedLot]

/-- Settles O21: the checks in their order, each on the state as it is. -/
theorem promoteLotRefusals : Obligations.PromoteLotRefusals := by
  intro s p r h
  refine ⟨fun hnone => congrArg _ (serveOwner_eq h (promoteLotTake_none _ _ hnone)), ?_⟩
  intro st hst d passes lots
  have answer : ∀ {rep : Reply}, promoteStaged (u8 r.body 0) st s = (rep, s) →
      exec (.promoteLot p) s = .next (s.answered p r rep) :=
    fun ht => congrArg _ (serveOwner_eq h ((promoteLotTake_some _ _ hst).trans ht))
  have pass : ∀ {ch}, passes ch → channelConsistent st.values ch = true := (channelConsistent_iff st.values _).2
  have fail : ∀ {ch}, ¬ passes ch → ¬ channelConsistent st.values ch = true :=
    fun hp hc => hp ((channelConsistent_iff st.values _).1 hc)
  refine ⟨fun hr => answer (promoteStaged_inconsistent (c := .r) ?_),
    fun hr hg => answer (promoteStaged_inconsistent (c := .g) ?_),
    fun hr hg hb => answer (promoteStaged_inconsistent (c := .b) ?_), fun hall => ?_⟩
  · rw [inconsistentChannel_eq, if_neg (fail hr)]
  · rw [inconsistentChannel_eq, if_pos (pass hr), if_neg (fail hg)]
  · rw [inconsistentChannel_eq, if_pos (pass hr), if_pos (pass hg), if_neg (fail hb)]
  have hc : inconsistentChannel st.values = none := by
    rw [inconsistentChannel_eq, if_pos (pass (hall .r)), if_pos (pass (hall .g)), if_pos (pass (hall .b))]
  refine ⟨fun hnone hne => answer ?_, fun l hsome hbad => answer ?_, fun hnone h0 hfull => answer ?_⟩
  · rw [promoteStaged_mismatch hc ((revisionAdmits_of_none hnone _).trans (decide_eq_false hne)),
      currentRevision_of_none hnone]
  · have hrev : ¬ (u8 r.body 0 ≠ 0 ∧ u8 r.body 0 = l.revision) := fun hh => hbad.elim hh.1 fun hne => hne hh.2
    rw [promoteStaged_mismatch hc ((revisionAdmits_of_some hsome _).trans (decide_eq_false hrev)),
      currentRevision_of_some hsome]
  · exact promoteStaged_full hc ((revisionAdmits_of_none hnone _).trans (decide_eq_true h0))
      ((tableFull_of_none hnone).trans (decide_eq_true hfull))

/-! ## Retire Lot (R30) -/

theorem retireLotTake_refused {o : ByteOrder} {b : List Octet} (s : State) (h : 1 < u8 b 0 ∨ u16 o b 1 = 0) :
    retireLotTake o b s = (.bare .badValue, s) := by
  unfold retireLotTake
  rw [namedLot_eq_none h]
  rfl

theorem retireLotTake_notFound {o : ByteOrder} {b : List Octet} {s : State} {pr : Process} {n : Nat}
    (hn : namedLot o b 0 = some (pr, n)) (h : findLot (s.table pr).lots n = none) :
    retireLotTake o b s = (.bare .notFound, s) := by
  simp only [retireLotTake, hn, h, refuse]

theorem retireLotTake_inUse {o : ByteOrder} {b : List Octet} {s : State} {pr : Process} {n : Nat} {l : LotRecord}
    (hn : namedLot o b 0 = some (pr, n)) (h : findLot (s.table pr).lots n = some l) (hc : 0 < l.storeCount) :
    retireLotTake o b s = (⟨.inUse, [.o16 l.storeCount]⟩, s) := by
  simp only [retireLotTake, hn, h, if_pos hc]

theorem retireLotTake_retired {o : ByteOrder} {b : List Octet} {s : State} {pr : Process} {n : Nat} {l : LotRecord}
    (hn : namedLot o b 0 = some (pr, n)) (h : findLot (s.table pr).lots n = some l) (hc : l.storeCount = 0) :
    retireLotTake o b s =
      (.bare .ok, raiseAll .table (s.setTable pr { s.table pr with lots := removeLot (s.table pr).lots n })) := by
  simp only [retireLotTake, hn, h, hc, Nat.lt_irrefl, if_false]

/-- Settles O22: a retirement removes the one lot from the table. -/
theorem retireLotRemovesAnUnusedLot : Obligations.RetireLotRemovesAnUnusedLot := by
  intro s p r h o b
  refine ⟨fun hbad => congrArg _ (serveOwner_eq h (retireLotTake_refused s hbad)), ?_⟩
  intro pr hp hn lots
  have hnamed : namedLot o b 0 = some (pr, u16 o b 1) := namedLot_eq_some hp hn
  refine ⟨fun hnone => congrArg _ (serveOwner_eq h (retireLotTake_notFound hnamed hnone)), fun l hl =>
    ⟨fun hc => congrArg _ (serveOwner_eq h (retireLotTake_inUse hnamed hl hc)), fun hc =>
      ⟨removeLot lots (u16 o b 1), congrArg _ (serveOwner_eq h (retireLotTake_retired hnamed hl hc)), ?_,
        fun n hne => ?_, List.filter_sublist⟩⟩⟩
  · rw [findLot_removeLot, if_pos rfl]
  · rw [findLot_removeLot, if_neg hne]

end Sys2Proof.Machine

namespace Sys2Proof.Machine

/-! ## Stage Profile (R24) -/

theorem stageProfileTake_refused (p : Port) {b : List Octet} (o : ByteOrder) (s : State) (h : 1 < u8 b 0) :
    stageProfileTake p o b s = (.bare .badValue, s) := by
  unfold stageProfileTake
  rw [processOfNumber_eq_none h]
  rfl

theorem stageProfileTake_staged (p : Port) {b : List Octet} {pr : Process} (o : ByteOrder) (s : State)
    (h : u8 b 0 = processNumber pr) : stageProfileTake p o b s =
      (clampReply [] (clampedProfileFields o b),
        s.modPort p fun ps => { ps with stagingProfile := some ⟨pr, carriedProfile o b⟩ }) := by
  unfold stageProfileTake
  rw [h, processOfNumber_processNumber]

theorem RangedField.isClamped_iff (x : RangedField) : x.isClamped = true ↔ x.carried < x.low ∨ x.high < x.carried := by
  simp only [RangedField.isClamped, Bool.or_eq_true, decide_eq_true_eq]

/-- A limit field of the group of a number, from the octet where the limit stands in the first group (R175). -/
def limitAt (o : ByteOrder) (b : List Octet) (first low high i : Nat) : RangedField :=
  ⟨u16 o b (first + 10 * i), low, high⟩

/-- The clamp list goes through the groups once for each limit, then through the three other fields. -/
theorem profileClampOrder_eq (o : ByteOrder) (b : List Octet) : profileClampOrder o b =
    (List.range 4).map (limitAt o b 2 1 1000) ++ ((List.range 4).map (limitAt o b 4 1 1000) ++
      ((List.range 4).map (limitAt o b 8 1 1000) ++ ((List.range 4).map (limitAt o b 6 1 2000) ++
        ((List.range 4).map (limitAt o b 10 0 1000) ++ [weightField b, runLengthField b, overdueField b])))) := rfl

theorem getElem?_map_range_append {α : Type} (n : Nat) (f : Nat → α) (rest : List α) (i : Nat) :
    ((List.range n).map f ++ rest)[i]? = if i < n then some (f i) else rest[i - n]? := by
  rw [List.getElem?_append, List.length_map, List.length_range]
  split
  · next h => simp [h]
  · rfl

theorem mem_clampedProfileFields_iff (o : ByteOrder) (b : List Octet) (i : Nat) :
    i ∈ clampedProfileFields o b ↔ ∃ x, (profileClampOrder o b)[i]? = some x ∧ x.isClamped = true := by
  have hlength : (profileClampOrder o b).length = 23 := rfl
  unfold clampedProfileFields
  rw [List.mem_filter, List.mem_range, List.getD_eq_getElem?_getD, List.getElem?_map]
  cases hx : (profileClampOrder o b)[i]? with
  | none => simp
  | some x =>
    have hi : i < 23 := hlength ▸ (List.getElem?_eq_some_iff.1 hx).1
    simp [hi]

theorem mem_clampedProfileFields (o : ByteOrder) (b : List Octet) (i : Nat) :
    i ∈ clampedProfileFields o b ↔
      (i < 4 ∧ (u16 o b (2 + 10 * i) < 1 ∨ 1000 < u16 o b (2 + 10 * i))) ∨
      (4 ≤ i ∧ i < 8 ∧ (u16 o b (4 + 10 * (i - 4)) < 1 ∨ 1000 < u16 o b (4 + 10 * (i - 4)))) ∨
      (8 ≤ i ∧ i < 12 ∧ (u16 o b (8 + 10 * (i - 8)) < 1 ∨ 1000 < u16 o b (8 + 10 * (i - 8)))) ∨
      (12 ≤ i ∧ i < 16 ∧ (u16 o b (6 + 10 * (i - 12)) < 1 ∨ 2000 < u16 o b (6 + 10 * (i - 12)))) ∨
      (16 ≤ i ∧ i < 20 ∧ 1000 < u16 o b (10 + 10 * (i - 16))) ∨
      (i = 20 ∧ (u8 b 42 < 1 ∨ 16 < u8 b 42)) ∨ (i = 21 ∧ (u8 b 43 < 2 ∨ 15 < u8 b 43)) ∨
      (i = 22 ∧ (u8 b 44 < 1 ∨ 15 < u8 b 44)) := by
  rw [mem_clampedProfileFields_iff, profileClampOrder_eq]
  simp only [getElem?_map_range_append, Nat.sub_sub, Nat.reduceAdd]
  have field : ∀ {x : RangedField},
      (∃ y, some x = some y ∧ y.isClamped = true) ↔ x.carried < x.low ∨ x.high < x.carried := fun {x} => by
    simp only [Option.some.injEq, exists_eq_left', RangedField.isClamped_iff]
  iterate 5
    split
    · rw [field]
      dsimp only [limitAt]
      grind
  obtain rfl | rfl | rfl | hi : i = 20 ∨ i = 21 ∨ i = 22 ∨ 23 ≤ i := by omega
  · exact field.trans (by dsimp only [weightField]; grind)
  · exact field.trans (by dsimp only [runLengthField]; grind)
  · exact field.trans (by dsimp only [overdueField]; grind)
  · rw [List.getElem?_eq_none (by simp only [List.length_cons, List.length_nil]; omega)]
    simp only [reduceCtorEq, false_and, exists_false, false_iff]
    omega

/-- Settles O24: each field of the staged record is the carried one brought to the nearer end of its range, and the
clamp list is read off the order of its fields. -/
theorem stageProfileKeepsTheClampedRecord : Obligations.StageProfileKeepsTheClampedRecord := by
  intro s p r h o b
  refine ⟨fun hbad => congrArg _ (serveOwner_eq h (stageProfileTake_refused p o s hbad)), fun pr hp => ?_⟩
  have value : ∀ (x : RangedField), x.low ≤ x.high → x.value = max x.low (min x.high x.carried) :=
    fun x hx => clampNat_eq_max_min hx x.carried
  refine ⟨_, clampedProfileFields o b, congrArg _ (serveOwner_eq h (stageProfileTake_staged p o s hp)), rfl,
    fun g => ?_, value (weightField b) (by decide : 1 ≤ 16), value (runLengthField b) (by decide : 2 ≤ 15),
    value (overdueField b) (by decide : 1 ≤ 15), rfl, List.pairwise_lt_range.filter _, mem_clampedProfileFields o b⟩
  have index : ∀ k, 2 + 10 * g.number + 2 * k = 2 + 2 * k + 10 * g.number := fun k => by omega
  rw [limits_carriedProfile]
  refine ⟨?_, ?_, ?_, ?_, ?_⟩
  · rw [value (clField o b g) (by decide : 1 ≤ 1000)]
    rfl
  · rw [value (alField o b g) (by decide : 1 ≤ 1000)]
    exact congrArg (fun i => max 1 (min 1000 (u16 o b i))) (index 1)
  · rw [value (slField o b g) (by decide : 1 ≤ 2000)]
    exact congrArg (fun i => max 1 (min 2000 (u16 o b i))) (index 2)
  · rw [value (dlField o b g) (by decide : 1 ≤ 1000)]
    exact congrArg (fun i => max 1 (min 1000 (u16 o b i))) (index 3)
  · rw [value (rbField o b g) (by decide : 0 ≤ 1000)]
    exact (Nat.zero_max _).trans (congrArg (fun i => min 1000 (u16 o b i)) (index 4))

/-! ## Promote Profile (R28) -/

/-- The check of R28, group by group. -/
theorem inconsistentGroup_eq (v : ProfileValues) : inconsistentGroup v =
    if v.limits.base.al < v.limits.base.cl then some .base
    else if v.limits.speed.al < v.limits.speed.cl then some .speed
    else if v.limits.contrast.al < v.limits.contrast.cl then some .contrast
    else if v.limits.top.al < v.limits.top.cl then some .top else none := by
  have check : ∀ (g : Group) (rest : List Group),
      (g :: rest).find? (fun g => decide ((v.limits.get g).al < (v.limits.get g).cl)) =
        if (v.limits.get g).al < (v.limits.get g).cl then some g
        else rest.find? fun g => decide ((v.limits.get g).al < (v.limits.get g).cl) := by
    intro g rest
    split
    · next hlt => exact List.find?_cons_of_pos (decide_eq_true hlt)
    · next hge => exact List.find?_cons_of_neg (by simpa using hge)
  unfold inconsistentGroup allGroups
  rw [check, check, check, check]
  rfl

theorem plotsNothing_iff (v : ProfileValues) : plotsNothing v = true ↔ v.plotted = ⟨false, false, false, false⟩ := by
  unfold plotsNothing
  rcases v.plotted with ⟨_ | _, _ | _, _ | _, _ | _⟩ <;> decide

theorem promoteProfileTake_none {p : Port} (o : ByteOrder) (b : List Octet) {s : State}
    (h : (s.port p).stagingProfile = none) : promoteProfileTake p o b s = (.bare .noStaging, s) := by
  unfold promoteProfileTake
  rw [h]
  rfl

theorem promoteProfileTake_some {p : Port} (o : ByteOrder) (b : List Octet) {s : State} {st : StagedProfile}
    (h : (s.port p).stagingProfile = some st) : promoteProfileTake p o b s = promoteStagedProfile (u8 b 0) st s := by
  unfold promoteProfileTake
  rw [h]

section Promote
variable {s : State} {st : StagedProfile} {expected : Nat}

theorem promoteStagedProfile_inconsistent {g : Group} (h : inconsistentGroup st.values = some g) :
    promoteStagedProfile expected st s = (⟨.inconsistent, [.o8 g.number]⟩, s) := by
  unfold promoteStagedProfile
  rw [h]

theorem promoteStagedProfile_empty (h : inconsistentGroup st.values = none) (hp : plotsNothing st.values = true) :
    promoteStagedProfile expected st s = (⟨.inconsistent, [.o8 4]⟩, s) := by
  unfold promoteStagedProfile
  rw [h]
  exact if_pos hp

theorem promoteStagedProfile_mismatch (h : inconsistentGroup st.values = none)
    (hp : ¬ plotsNothing st.values = true) (hr : expected ≠ (s.table st.process).profile.revision) :
    promoteStagedProfile expected st s =
      (⟨.revisionMismatch, [.o8 (s.table st.process).profile.revision]⟩, s) := by
  unfold promoteStagedProfile
  rw [h]
  exact (if_neg hp).trans (if_neg hr)

theorem promoteStagedProfile_taken (h : inconsistentGroup st.values = none) (hp : ¬ plotsNothing st.values = true)
    (hr : expected = (s.table st.process).profile.revision) : promoteStagedProfile expected st s =
      (⟨.ok, [.o8 (processNumber st.process), .o8 (nextRevision (s.table st.process).profile.revision)]⟩,
        raiseAll .table (s.setTable st.process { s.table st.process with
          profile := ⟨st.values, nextRevision (s.table st.process).profile.revision⟩ })) := by
  unfold promoteStagedProfile
  rw [h]
  exact (if_neg hp).trans (if_pos hr)

end Promote

/-- Settles O25: the four checks in their order, then the staged values with the next revision. -/
theorem promoteProfileInOrder : Obligations.PromoteProfileInOrder := by
  intro s p r h
  refine ⟨fun hnone => congrArg _ (serveOwner_eq h (promoteProfileTake_none _ _ hnone)), ?_⟩
  intro st hst l active none'
  have answer : ∀ {rep : Reply} {t : State}, promoteStagedProfile (u8 r.body 0) st s = (rep, t) →
      exec (.promoteProfile p) s = .next (t.answered p r rep) :=
    fun ht => congrArg _ (serveOwner_eq h ((promoteProfileTake_some _ _ hst).trans ht))
  refine ⟨fun hbase => answer (promoteStagedProfile_inconsistent (g := .base) ?_),
    fun hbase hspeed => answer (promoteStagedProfile_inconsistent (g := .speed) ?_),
    fun hbase hspeed hcontrast => answer (promoteStagedProfile_inconsistent (g := .contrast) ?_),
    fun hbase hspeed hcontrast htop => answer (promoteStagedProfile_inconsistent (g := .top) ?_), fun hall => ?_⟩
  · rw [inconsistentGroup_eq, if_pos hbase]
  · rw [inconsistentGroup_eq, if_neg (Nat.not_lt.2 hbase), if_pos hspeed]
  · rw [inconsistentGroup_eq, if_neg (Nat.not_lt.2 hbase), if_neg (Nat.not_lt.2 hspeed), if_pos hcontrast]
  · rw [inconsistentGroup_eq, if_neg (Nat.not_lt.2 hbase), if_neg (Nat.not_lt.2 hspeed),
      if_neg (Nat.not_lt.2 hcontrast), if_pos htop]
  have hc : inconsistentGroup st.values = none := by
    exact (inconsistentGroup_eq _).trans ((if_neg (Nat.not_lt.2 (hall .base))).trans
      ((if_neg (Nat.not_lt.2 (hall .speed))).trans ((if_neg (Nat.not_lt.2 (hall .contrast))).trans
        (if_neg (Nat.not_lt.2 (hall .top))))))
  have hplots : ¬ none' → ¬ plotsNothing st.values = true := fun hsome hp => hsome ((plotsNothing_iff _).1 hp)
  exact ⟨fun hnone => answer (promoteStagedProfile_empty hc ((plotsNothing_iff _).2 hnone)),
    fun hsome hne => answer (promoteStagedProfile_mismatch hc (hplots hsome) hne),
    fun hsome heq => answer (promoteStagedProfile_taken hc (hplots hsome) heq)⟩

/-! ## The layouts of R175 and the reads (R32 to R34) -/

theorem lotFields_eq (pr : Process) (number revision : Nat) (v : LotValues) (count : Nat) :
    lotFields pr number revision v count =
      [.o8 (processNumber pr), .o16 number, .o8 revision, .o8 (if v.lastUsable.isSome then 1 else 0),
        .o16 (v.lastUsable.getD 0)] ++
      (([.dmin, .low, .high, .dmax] : List Patch).flatMap fun pa =>
        ([.r, .g, .b] : List Channel).map fun ch => Field.o16 (v.densities.item pa ch)) ++
      (([.base, .speed, .contrast, .top] : List Group).flatMap fun g =>
        ([.r, .g, .b] : List Channel).map fun ch => Field.o16s (v.corrections.pv g ch)) ++ [.o16 count] := by
  simp only [lotFields, itemList_eq_flatMap, pvList_eq_flatMap, List.map_flatMap, List.map_map, bitAt]
  rfl

theorem profileFields_eq (pr : Process) (revision : Nat) (v : ProfileValues) : profileFields pr revision v =
    [.o8 (processNumber pr), .o8 revision] ++
      (([.base, .speed, .contrast, .top] : List Group).flatMap fun g => limitFields (v.limits.get g)) ++
      [.o8 v.weight, .o8 v.runLength, .o8 v.overdueLimit,
        .o8 ((if v.plotted.base then 1 else 0) + (if v.plotted.speed then 2 else 0) +
          (if v.plotted.contrast then 4 else 0) + (if v.plotted.top then 8 else 0))] := rfl

section Reads
variable {p : Port} {o : ByteOrder} {b : List Octet} {s : State}

theorem readLotTake_unnamed (h : u8 b 0 = 0) (hn : namedLot o b 1 = none) :
    readLotTake p o b s = (.bare .badValue, s) := by
  simp only [readLotTake, h, hn, refuse]

theorem readLotTake_notFound {pr : Process} {n : Nat} (h : u8 b 0 = 0) (hn : namedLot o b 1 = some (pr, n))
    (hl : findLot (s.table pr).lots n = none) : readLotTake p o b s = (.bare .notFound, s) := by
  simp only [readLotTake, h, hn, hl, refuse]

theorem readLotTake_active {pr : Process} {n : Nat} {l : LotRecord} (h : u8 b 0 = 0)
    (hn : namedLot o b 1 = some (pr, n)) (hl : findLot (s.table pr).lots n = some l) :
    readLotTake p o b s = (⟨.ok, lotFields pr l.number l.revision l.values l.storeCount⟩, s) := by
  simp only [readLotTake, h, hn, hl]

theorem readLotTake_noStaging (h : u8 b 0 = 1) (hst : (s.port p).stagingLot = none) :
    readLotTake p o b s = (.bare .noStaging, s) := by
  simp only [readLotTake, h, hst, refuse]

theorem readLotTake_staging {st : StagedLot} (h : u8 b 0 = 1) (hst : (s.port p).stagingLot = some st) :
    readLotTake p o b s = (⟨.ok, lotFields st.process st.number 0 st.values 0⟩, s) := by
  simp only [readLotTake, h, hst]

theorem readLotTake_source (h : 1 < u8 b 0) : readLotTake p o b s = (.bare .badValue, s) := by
  obtain ⟨k, hk⟩ := Nat.exists_eq_add_of_le' h
  simp only [readLotTake, hk, refuse]

theorem listLotsTake_refused (h : 1 < u8 b 0) : listLotsTake o b s = (.bare .badValue, s) := by
  simp only [listLotsTake, processOfNumber_eq_none h, refuse]

theorem listLotsTake_listed {pr : Process} (h : u8 b 0 = processNumber pr) : listLotsTake o b s =
    (⟨.ok, .o8 (s.table pr).lots.length :: (s.table pr).lots.flatMap lotItem⟩, s) := by
  simp only [listLotsTake, h, processOfNumber_processNumber]

theorem readProfileTake_refused (h : u8 b 0 = 0) (hp : 1 < u8 b 1) :
    readProfileTake p o b s = (.bare .badValue, s) := by
  simp only [readProfileTake, h, processOfNumber_eq_none hp, refuse]

theorem readProfileTake_active {pr : Process} (h : u8 b 0 = 0) (hp : u8 b 1 = processNumber pr) :
    readProfileTake p o b s =
      (⟨.ok, profileFields pr (s.table pr).profile.revision (s.table pr).profile.values⟩, s) := by
  simp only [readProfileTake, h, hp, processOfNumber_processNumber]

theorem readProfileTake_noStaging (h : u8 b 0 = 1) (hst : (s.port p).stagingProfile = none) :
    readProfileTake p o b s = (.bare .noStaging, s) := by
  simp only [readProfileTake, h, hst, refuse]

theorem readProfileTake_staging {st : StagedProfile} (h : u8 b 0 = 1) (hst : (s.port p).stagingProfile = some st) :
    readProfileTake p o b s = (⟨.ok, profileFields st.process 0 st.values⟩, s) := by
  simp only [readProfileTake, h, hst]

theorem readProfileTake_source (h : 1 < u8 b 0) : readProfileTake p o b s = (.bare .badValue, s) := by
  obtain ⟨k, hk⟩ := Nat.exists_eq_add_of_le' h
  simp only [readProfileTake, hk, refuse]

end Reads

theorem setTable_eq (s : State) (pr : Process) (x : ProcTable) :
    s.setTable pr x = { s with refs := (s.setTable pr x).refs } := by
  cases pr <;> rfl

/-- Settles O23: what is found in a table and what is written to it, the two layouts part by part, and each read case
by case. -/
theorem referenceReadsChangeNothing : Obligations.ReferenceReadsChangeNothing := by
  refine ⟨fun lots n => ⟨findLot_eq_none_iff lots n, fun l => findLot_some⟩, lotActive_iff,
    fun s pr x => ⟨setTable_eq s pr x, fun qr => table_setTable s pr qr x⟩, lotFields_eq, profileFields_eq, ?_⟩
  intro s p r o b
  refine ⟨fun h => ?lot, fun h => ?list, fun h => ?profile⟩
  case lot =>
    have answer : ∀ {rep : Reply}, readLotTake p o b s = (rep, s) →
        exec (.readLot p) s = .next (s.answered p r rep) := fun ht => congrArg _ (serveOwner_eq h ht)
    exact ⟨fun h0 hbad => answer (readLotTake_unnamed h0 (namedLot_eq_none hbad)),
      fun pr h0 hp hn => ⟨fun hl => answer (readLotTake_notFound h0 (namedLot_eq_some hp hn) hl),
        fun l hl => answer (readLotTake_active h0 (namedLot_eq_some hp hn) hl)⟩,
      fun h1 hst => answer (readLotTake_noStaging h1 hst), fun st h1 hst => answer (readLotTake_staging h1 hst),
      fun h2 => answer (readLotTake_source h2)⟩
  case list =>
    exact ⟨fun hbad => congrArg _ (serveOwner_eq h (listLotsTake_refused hbad)),
      fun pr hp => congrArg _ (serveOwner_eq h (listLotsTake_listed hp))⟩
  case profile =>
    have answer : ∀ {rep : Reply}, readProfileTake p o b s = (rep, s) →
        exec (.readProfile p) s = .next (s.answered p r rep) := fun ht => congrArg _ (serveOwner_eq h ht)
    exact ⟨fun h0 hbad => answer (readProfileTake_refused h0 hbad),
      fun pr h0 hp => answer (readProfileTake_active h0 hp), fun h1 hst => answer (readProfileTake_noStaging h1 hst),
      fun st h1 hst => answer (readProfileTake_staging h1 hst), fun h2 => answer (readProfileTake_source h2)⟩

/-! ## The invariants at device reset -/

theorem port_reset (p : Port) : State.reset.port p = PortState.reset := port_deviceResetState State.reset p

theorem portOk_reset : PortOk PortState.reset :=
  ⟨by decide, by decide, by decide, by decide, by decide, fun _ h => absurd h List.not_mem_nil, rfl, rfl⟩

theorem present_reset (q : Requester) : present State.reset q = false := by
  cases q with
  | port p => cases p <;> rfl
  | sweep => rfl

theorem arbiterOk_reset : ArbiterOk State.reset := by
  refine ⟨⟨rfl, rfl, present_reset⟩, fun p pl hpl => ?_⟩
  rw [port_reset] at hpl
  cases hpl

theorem storeCountsOk_reset : StoreCountsOk State.reset :=
  (storeCountsOk_iff (countsOk_deviceReset State.reset).numbers).2 ⟨countsOk_deviceReset State.reset, trivial⟩

theorem chartsOk_reset : ChartsOk State.reset := by
  refine ⟨fun n pr => ?_, fun _ h => absurd h List.not_mem_nil, fun i => ?_, trivial⟩
  · rw [show State.reset.chart n pr = Chart.off from chart_deviceResetState State.reset n pr]
    exact chartOk_off 0
  · rw [show State.reset.patterns[i] = PatternEntry.zero from patterns_deviceResetState State.reset i]
    exact Nat.zero_le 59

/-- Settles O52: the empty tables, the default profiles and the idle ports meet each invariant. -/
theorem invariantsHoldAtReset : Obligations.InvariantsHoldAtReset :=
  ⟨storesOk_reset, by decide, referenceOk_deviceReset State.reset, fun p => port_reset p ▸ portOk_reset,
    by unfold CalendarOk; decide, arbiterOk_reset, ⟨storesOk_reset, trivial, rfl⟩, storeCountsOk_reset,
    chartsOk_reset⟩

end Sys2Proof.Machine

namespace Sys2Proof.Machine

/-! ## Enrol Chart and Withdraw Chart at their grants (R52 to R55) -/

theorem exec_enrolChart {s : State} {c : Caller} (h : Granted s .enrolChart c) :
    exec .enrolChart s = .next (onChart c (enrolGrant c) s) := congrArg Host.Outcome.next (withGranted_at h _)

theorem exec_withdrawChart {s : State} {c : Caller} (h : Granted s .withdrawChart c) :
    exec .withdrawChart s = .next (onChart c (withdrawGrant c) s) := congrArg Host.Outcome.next (withGranted_at h _)

theorem exec_restoreChart {s : State} {c : Caller} (h : Granted s .restoreChart c) :
    exec .restoreChart s = .next (onChart c (restoreGrant c) s) := congrArg Host.Outcome.next (withGranted_at h _)

/-! ## The question of an enrolment's lot (R19, R54, R62) -/

theorem joinLot_zero (pr : Process) (s : State) : joinLot pr 0 s = some s := rfl

theorem joinLot_active {pr : Process} {n : Nat} {s : State} (hn : n ≠ 0) (ha : lotActive s pr n = true) :
    joinLot pr n s = some (countUp pr n s) := (if_neg hn).trans (if_pos ha)

theorem joinLot_inactive {pr : Process} {n : Nat} {s : State} (hn : n ≠ 0) (ha : lotActive s pr n = false) :
    joinLot pr n s = none := (if_neg hn).trans (if_neg (by rw [ha]; decide))

theorem enrolCommit_joined {s s' : State} {c : Caller} {n lot : Nat} {pr : Process}
    (he : s.engine = some (.enrolling c n pr lot)) (hj : joinLot pr lot s = some s') : enrolCommit s =
      finishOperation c ⟨.ok, [.o16 s.calendar.day]⟩ (s'.modChart n pr (enrolledChart lot s.calendar.day)) := by
  simp only [enrolCommit, he, hj]

theorem enrolCommit_notFound {s : State} {c : Caller} {n lot : Nat} {pr : Process}
    (he : s.engine = some (.enrolling c n pr lot)) (hj : joinLot pr lot s = none) : enrolCommit s =
      finishOperation c (.bare .notFound) (s.modEnrolment (· - 1)) := by
  simp only [enrolCommit, he, hj]

/-- Settles O41: the grant's checks, and the commit by the answer to the lot's question. -/
theorem enrolChartInTwoSteps : Obligations.EnrolChartInTwoSteps := by
  intro s c
  refine ⟨fun hg => ⟨fun hbad => ?unnamed, fun pr hstore hpr => ⟨fun hon => ?enrolled, fun hoff => ?granted⟩⟩,
    fun store pr lot he => ⟨fun h0 => ?noLot, fun hne ha => ?joined, fun hne ha => ?notFound⟩⟩
  case unnamed => rw [exec_enrolChart hg, onChart_none (namedChart_eq_none hbad)]
  case enrolled =>
    rw [exec_enrolChart hg, onChart_some (namedChart_eq_some hstore hpr), enrolGrant, if_neg hon]
  case granted =>
    rw [exec_enrolChart hg, onChart_some (namedChart_eq_some hstore hpr), enrolGrant, if_pos hoff]
    rfl
  case noLot =>
    subst h0
    exact congrArg _ (enrolCommit_joined he (joinLot_zero pr s))
  case joined =>
    refine congrArg _ ((enrolCommit_joined he (joinLot_active hne ha)).trans ?_)
    rw [State.modChart, chart_of_stores (stores_countUp pr lot s)]
    rfl
  case notFound => exact congrArg _ (enrolCommit_notFound he (joinLot_inactive hne ha))

/-! ## Withdraw Chart (R55, R126) -/

theorem countDown_frame (pr : Process) (n : Nat) (s : State) :
    countDown pr n s = { s with refs := (countDown pr n s).refs } := by
  unfold countDown
  split
  · rfl
  · exact setTable_eq s pr _

/-- A withdrawal changes the lots' counts, the notices and the enrolment count before it writes the chart. -/
theorem unlisted_frame (n : Nat) (pr : Process) (s : State) : unlisted n pr s =
    { s with
      refs := (unlisted n pr s).refs, notices := (unlisted n pr s).notices
      calendar := (unlisted n pr s).calendar } := by
  unfold unlisted
  rw [countDown_frame]
  rfl

theorem notices_unlisted (n : Nat) (pr : Process) (s : State) :
    (unlisted n pr s).notices = removeNotices n pr s.notices := by
  show removeNotices n pr (countDown pr _ s).notices = _
  rw [countDown_frame]

theorem calendar_unlisted (n : Nat) (pr : Process) (s : State) :
    (unlisted n pr s).calendar = { s.calendar with enrolment := s.calendar.enrolment - 1 } := by
  unfold unlisted
  rw [countDown_frame]
  rfl

theorem countNotices_eq (n : Nat) (pr : Process) (q : NoticeQueue) :
    countNotices n pr q = (q.entries.filter fun e => e.store = n ∧ e.process = pr).length := by
  unfold countNotices
  congr 1
  exact List.filter_congr fun e _ => by simp [beq_eq_decide]

theorem removeNotices_eq (n : Nat) (pr : Process) (q : NoticeQueue) :
    removeNotices n pr q = { q with entries := q.entries.filter fun e => ¬ (e.store = n ∧ e.process = pr) } := by
  unfold removeNotices
  congr 1
  exact List.filter_congr fun e _ => by simp [beq_eq_decide]

/-- The lots after a withdrawal: one chart less on the chart's lot, 0 being none (R19). -/
theorem table_unlisted_eq (n : Nat) (pr qr : Process) (s : State) : (unlisted n pr s).table qr =
    { s.table qr with lots := (s.table qr).lots.map fun l =>
      if qr = pr ∧ (s.chart n pr).currentLot ≠ 0 ∧ l.number = (s.chart n pr).currentLot then
        { l with storeCount := l.storeCount - 1 } else l } := by
  have unchanged : ∀ f : LotRecord → LotRecord, (∀ l, f l = l) →
      s.table qr = { s.table qr with lots := (s.table qr).lots.map f } := fun f hf => by
    rw [funext hf, List.map_id']
  rw [table_unlisted]
  unfold countDown
  split
  · next h0 => exact unchanged _ fun l => if_neg fun hl => hl.2.1 h0
  · next hne =>
    rw [table_setTable]
    split
    · next hq =>
      subst hq
      simp only [true_and, ne_eq, hne, not_false_eq_true]
      rfl
    · next hq => exact unchanged _ fun l => if_neg fun hl => hq hl.1

/-- Settles O42: the grant's checks; the commit writes the OFF values in one chart, and the rest of it is
`unlisted`. -/
theorem withdrawChartInTwoSteps : Obligations.WithdrawChartInTwoSteps := by
  intro s c
  refine ⟨fun hg => ⟨fun hbad => ?unnamed, fun pr hstore hpr => ⟨fun hoff => ?off, fun hon => ?granted⟩⟩,
    fun store pr he hwf hn => ?commit⟩
  case unnamed => rw [exec_withdrawChart hg, onChart_none (namedChart_eq_none hbad)]
  case off =>
    rw [exec_withdrawChart hg, onChart_some (namedChart_eq_some hstore hpr), withdrawGrant, if_pos hoff]
  case granted =>
    rw [exec_withdrawChart hg, onChart_some (namedChart_eq_some hstore hpr), withdrawGrant, if_neg hon]
  case commit =>
    have hstores := stores_unlisted store pr s
    have hwf' : StoresOk (unlisted store pr s) := storesOk_of_stores hstores hwf
    refine ⟨(unlisted store pr s).setChart store pr Chart.off, ?taken, ?frame, ?notices,
      calendar_unlisted store pr s, fun qr => ?table, ?chart, fun n => ?instrument, fun n qr hne => ?other⟩
    case taken =>
      rw [← countNotices_eq]
      exact congrArg _ (withdrawCommit_at he)
    case frame =>
      rw [unlisted_frame]
      rfl
    case notices => exact (notices_unlisted store pr s).trans (removeNotices_eq store pr s.notices)
    case table => exact table_unlisted_eq store pr qr s
    case chart =>
      rw [chart_setChart hwf', if_pos ⟨rfl, hn, rfl⟩]
      exact ⟨rfl, rfl, rfl, rfl, rfl, rfl, rfl, pv_chart_off, rfl, rfl, rfl, rfl, rfl, rfl, rfl, rfl⟩
    case instrument =>
      rw [instrument_setChart hwf', State.entry, hstores]
      rfl
    case other => rw [chart_setChart hwf', if_neg fun hh => hne ⟨hh.1, hh.2.2⟩, chart_of_stores hstores]

end Sys2Proof.Machine

namespace Sys2Proof.Machine

/-! ## The checks of a carried record (R61, R176) -/

theorem inRange_iff (lo hi x : Int) : inRange lo hi x = true ↔ lo ≤ x ∧ x ≤ hi := by
  simp only [inRange, Bool.and_eq_true, decide_eq_true_eq]

theorem carriedState_valid_iff (n : Nat) :
    (chartStateOfNumber n).any (· != .off) = true ↔ 1 ≤ n ∧ n ≤ 3 := by
  rcases n with _ | _ | _ | _ | n
  · decide
  · decide
  · decide
  · decide
  · simp [chartStateOfNumber]

theorem signOfOctet_eq_none {x : Nat} (h0 : x ≠ 0) (h1 : x ≠ 1) (h255 : x ≠ 255) : signOfOctet x = none := by
  unfold signOfOctet
  split
  · exact absurd rfl h0
  · exact absurd rfl h1
  · exact absurd rfl h255
  · rfl

/-- A carried run: no sign with count 0, or a sign with a count of 1..15. -/
theorem carriedRun_valid_iff (x y : Nat) :
    ((signOfOctet x).any fun sg => (sg == .zero) == (y == 0)) = true ∧ y ≤ 15 ↔
      (x = 0x00 ∧ y = 0) ∨ ((x = 0x01 ∨ x = 0xFF) ∧ 1 ≤ y ∧ y ≤ 15) := by
  by_cases h0 : x = 0
  · subst h0
    by_cases hy : y = 0 <;> simp [signOfOctet, hy]
  · by_cases h1 : x = 1
    · subst h1
      by_cases hy : y = 0 <;> simp [signOfOctet, hy]
      omega
    · by_cases h255 : x = 255
      · subst h255
        by_cases hy : y = 0 <;> simp [signOfOctet, hy]
        omega
      · simp [signOfOctet_eq_none h0 h1 h255, h0, h1, h255]

theorem pvValid_eq (o : ByteOrder) (b : List Octet) (i : Nat) : pvValid o b i =
    ((signOfOctet (u8 b (19 + 6 * i))).any (fun sg => (sg == .zero) == (u8 b (20 + 6 * i) == 0)) &&
      decide (u8 b (20 + 6 * i) ≤ 15) && inRange (-32752) 32752 (s16 o b (17 + 6 * i)) &&
      (!(u16 o b 13).testBit i || inRange (-2047) 2047 (s16 o b (15 + 6 * i)))) := by
  have h2 : pvOffset i + 2 = 17 + 6 * i := by unfold pvOffset; omega
  have h4 : pvOffset i + 4 = 19 + 6 * i := by unfold pvOffset; omega
  have h5 : pvOffset i + 5 = 20 + 6 * i := by unfold pvOffset; omega
  unfold pvValid
  rw [h2, h4, h5]
  cases signOfOctet (u8 b (19 + 6 * i)) <;> rfl

theorem pvValid_iff (o : ByteOrder) (b : List Octet) (i : Nat) : pvValid o b i = true ↔
    ((u8 b (19 + 6 * i) = 0x00 ∧ u8 b (20 + 6 * i) = 0) ∨
      ((u8 b (19 + 6 * i) = 0x01 ∨ u8 b (19 + 6 * i) = 0xFF) ∧ 1 ≤ u8 b (20 + 6 * i) ∧ u8 b (20 + 6 * i) ≤ 15)) ∧
    (-32752 ≤ s16 o b (17 + 6 * i) ∧ s16 o b (17 + 6 * i) ≤ 32752) ∧
    ((u16 o b 13).testBit i = true → -2047 ≤ s16 o b (15 + 6 * i) ∧ s16 o b (15 + 6 * i) ≤ 2047) := by
  rw [pvValid_eq, ← carriedRun_valid_iff, ← inRange_iff, ← inRange_iff]
  cases (u16 o b 13).testBit i <;> simp only [Bool.and_eq_true, decide_eq_true_eq, and_assoc, Bool.not_true,
    Bool.not_false, Bool.or_eq_true, true_or, false_or, true_implies, reduceCtorEq, false_implies]

theorem pairsValid_carried_iff (o : ByteOrder) (b : List Octet) : pairsValid (carriedPairs o b) = true ↔
    (∀ i j, i < j → j < pairCount b → u8 b (132 + 3 * i) < u8 b (132 + 3 * j)) ∧
    ∀ i, i < pairCount b →
      u8 b (132 + 3 * i) ≤ 11 ∧ -2047 ≤ s16 o b (133 + 3 * i) ∧ s16 o b (133 + 3 * i) ≤ 2047 := by
  unfold pairsValid carriedPairs
  simp only [Bool.and_eq_true, decide_eq_true_eq, List.pairwise_map, List.all_eq_true, List.forall_mem_map,
    List.mem_range, inRange_iff]
  refine and_congr_left' ⟨fun h i j hij hj => ?_, fun h => ?_⟩
  · have hlt := List.pairwise_iff_getElem.1 h i j (by rw [List.length_range]; omega) (by rwa [List.length_range]) hij
    simpa only [List.getElem_range] using hlt
  · refine List.pairwise_iff_getElem.2 fun i j hi hj hij => ?_
    simpa using h i j hij (by simpa using hj)

theorem resultValid_iff (o : ByteOrder) (b : List Octet) : resultValid o b = true ↔
    u8 b 131 = pairCount b ∧ (bit8 b 4 2 = false → pairCount b = 0) ∧
    (bit8 b 4 2 = true → u8 b 127 ≤ 63 ∧ u8 b 128 ≤ 3 ∧ pairsValid (carriedPairs o b) = true) := by
  unfold resultValid
  rw [Bool.and_eq_true, beq_iff_eq]
  refine and_congr_right fun hcount => ?_
  cases bit8 b 4 2 <;> simp [hcount, and_assoc]

theorem parkedValid_carried_iff (o : ByteOrder) (b : List Octet) :
    parkedValid (carriedLastDay o b) (carriedParked o b) = true ↔
      (bit8 b 4 3 = true → u16 o b 97 ≠ 0 ∧ (bit8 b 4 1 = true → u16 o b 10 ≤ u16 o b 99)) := by
  unfold parkedValid carriedParked carriedLastDay isStale
  cases bit8 b 4 3 <;> cases bit8 b 4 1 <;> simp

theorem carriedSign_eq (x : Nat) : (x = 0x00 → (signOfOctet x).getD .zero = .zero) ∧
    (x = 0x01 → (signOfOctet x).getD .zero = .pos) ∧ (x = 0xFF → (signOfOctet x).getD .zero = .neg) := by
  refine ⟨?_, ?_, ?_⟩ <;> rintro rfl <;> rfl

theorem severityOfNumber_severityNumber (sv : Severity) : severityOfNumber (severityNumber sv) = some sv := by
  cases sv <;> rfl

/-! ## Restore Chart (R61, R62) -/

theorem notAfter_iff (day : Option Nat) (c : Nat) : notAfter day c = true ↔ ∀ d, day = some d → d ≤ c := by
  cases day <;> simp [notAfter]

theorem calendarAdmits_iff (c : Nat) (ch : Chart) : calendarAdmits c ch = true ↔
    ¬ (c < ch.enrolDay ∨ (∃ l, ch.lastDay = some l ∧ c < l) ∨ ∃ pk, ch.parked = some pk ∧ c < pk.day) := by
  unfold calendarAdmits
  simp only [Bool.and_eq_true, decide_eq_true_eq, notAfter_iff, Option.map_eq_some_iff, not_or, not_exists, not_and,
    Nat.not_lt, forall_exists_index, and_imp, forall_apply_eq_imp_iff₂, and_assoc]

theorem restoreCommit_joined {s s' : State} {c : Caller} {n : Nat} {pr : Process} {ch : Chart}
    (he : s.engine = some (.restoring c n pr ch)) (hj : joinLot pr ch.currentLot s = some s') :
    restoreCommit s = finishOperation c (.bare .ok) (s'.setChart n pr ch) := by
  simp only [restoreCommit, he, hj]

theorem restoreCommit_notFound {s : State} {c : Caller} {n : Nat} {pr : Process} {ch : Chart}
    (he : s.engine = some (.restoring c n pr ch)) (hj : joinLot pr ch.currentLot s = none) :
    restoreCommit s = finishOperation c (.bare .notFound) (s.modEnrolment (· - 1)) := by
  simp only [restoreCommit, he, hj]

section Grant
variable {c : Caller} {n : Nat} {pr : Process} {s : State}

theorem restoreGrant_invalid (h : recordValid c.order c.request.body = false) :
    restoreGrant c n pr s = finishOperation c (.bare .badValue) s := if_pos h

theorem restoreGrant_exists (h : recordValid c.order c.request.body = true) (hon : (s.chart n pr).state ≠ .off) :
    restoreGrant c n pr s = finishOperation c (.bare .exists_) s :=
  (if_neg (by rw [h]; decide)).trans (if_pos hon)

theorem restoreGrant_late (h : recordValid c.order c.request.body = true) (hoff : (s.chart n pr).state = .off)
    (hlate : ¬ calendarAdmits s.calendar.day (carriedChart c.order c.request.body) = true) :
    restoreGrant c n pr s = finishOperation c (.bare .badValue) s :=
  (if_neg (by rw [h]; decide)).trans ((if_neg (not_not.2 hoff)).trans (if_neg hlate))

theorem restoreGrant_granted (h : recordValid c.order c.request.body = true) (hoff : (s.chart n pr).state = .off)
    (hday : calendarAdmits s.calendar.day (carriedChart c.order c.request.body) = true) :
    restoreGrant c n pr s = { s.modEnrolment (· + 1) with
      engine := some (.restoring c n pr (carriedChart c.order c.request.body)) } :=
  (if_neg (by rw [h]; decide)).trans ((if_neg (not_not.2 hoff)).trans (if_pos hday))

end Grant

/-- Settles O45: the checks part by part, the carried record field by field, the grant's checks in their order, and
the commit by the answer to the lot's question. -/
theorem restoreChartInTwoSteps : Obligations.RestoreChartInTwoSteps := by
  refine ⟨fun o b => ?valid, fun o b => ?carried, fun s c => ⟨fun hg => ?grant, fun store pr ch he => ?commit⟩⟩
  case valid =>
    rw [recordValid_eq]
    simp only [Bool.and_eq_true, carriedState_valid_iff, List.all_eq_true, List.mem_range, pvValid_iff,
      resultValid_iff, pairsValid_carried_iff, parkedValid_carried_iff, and_assoc]
    rfl
  case carried =>
    refine ⟨⟨fun h => ?_, fun h => ?_, fun h => ?_⟩, rfl, rfl, rfl, rfl, rfl, rfl, fun g ch => ?_, rfl, rfl, rfl, rfl,
      rfl, rfl, rfl, fun h => ?_, fun h sv hsv => ?_⟩
    · exact congrArg (fun n => (chartStateOfNumber n).getD .off) h
    · exact congrArg (fun n => (chartStateOfNumber n).getD .off) h
    · exact congrArg (fun n => (chartStateOfNumber n).getD .off) h
    · have hpv : (carriedChart o b).pvs.pv g ch = carriedPv o b (pvNumber g ch) := PerPv.pv_tab _ g ch
      have h2 : pvOffset (pvNumber g ch) + 2 = 17 + 6 * pvNumber g ch := by unfold pvOffset; omega
      have h4 : pvOffset (pvNumber g ch) + 4 = 19 + 6 * pvNumber g ch := by unfold pvOffset; omega
      have h5 : pvOffset (pvNumber g ch) + 5 = 20 + 6 * pvNumber g ch := by unfold pvOffset; omega
      rw [hpv]
      unfold carriedPv
      rw [h2, h4, h5]
      exact ⟨rfl, rfl, (carriedSign_eq _).1, (carriedSign_eq _).2.1, (carriedSign_eq _).2.2, rfl⟩
    · show carriedResult o b = none
      rw [carriedResult, h]
      rfl
    · show carriedResult o b = some _
      rw [carriedResult, h, ← hsv, severityOfNumber_severityNumber]
      rfl
  case grant =>
    refine ⟨fun hbad => ?_, fun pr hstore hpr => ?_⟩
    · rw [exec_restoreChart hg, onChart_none (namedChart_eq_none hbad)]
    have answer : ∀ {t : State}, restoreGrant c (u16 c.order c.request.body 0) pr s = t →
        exec .restoreChart s = .next t := fun ht => by
      rw [exec_restoreChart hg, onChart_some (namedChart_eq_some hstore hpr), ht]
    refine ⟨fun hbad => answer (restoreGrant_invalid hbad), fun hvalid => ⟨fun hon => answer
      (restoreGrant_exists hvalid hon), fun hoff hlate => answer (restoreGrant_late hvalid hoff fun hday =>
        (calendarAdmits_iff _ _).1 hday hlate), fun hoff hday => answer (restoreGrant_granted hvalid hoff
          ((calendarAdmits_iff _ _).2 hday))⟩⟩
  case commit =>
    refine ⟨fun h0 => ?_, fun hne ha => ?_, fun hne ha => ?_⟩
    · exact congrArg _ (restoreCommit_joined he (h0 ▸ joinLot_zero pr s))
    · exact congrArg _ (restoreCommit_joined he (joinLot_active hne ha))
    · exact congrArg _ (restoreCommit_notFound he (joinLot_inactive hne ha))

end Sys2Proof.Machine

namespace Sys2Proof.Machine

/-! ## The reply to an evaluated reading (R90, R91, R174) -/

theorem noticeId_eq (a : OfferAnswer) :
    a.noticeId = match a with | .merged n => n | .inserted n => n | .refused => 0 := by
  cases a <;> rfl

theorem isRefused_eq (a : OfferAnswer) : a.isRefused = decide (a = .refused) := by
  cases a <;> rfl

theorem lotExpired_iff (ev : Evaluation) :
    lotExpired ev = true ↔ ∃ d, ev.lot.values.lastUsable = some d ∧ d < ev.reading.day := by
  unfold lotExpired
  cases ev.lot.values.lastUsable <;> simp

theorem bitAt_lotExpired (ev : Evaluation) : bitAt 1 (lotExpired ev) =
    match ev.lot.values.lastUsable with | some d => if d < ev.reading.day then 2 else 0 | none => 0 := by
  unfold lotExpired bitAt
  cases ev.lot.values.lastUsable <;> simp

/-- A field made of each plotting value, group by group. -/
theorem map_pvList {α β : Type} (f : α → β) (x : PerPv α) :
    x.list.map f = ([.base, .speed, .contrast, .top] : List Group).flatMap fun g =>
      ([.r, .g, .b] : List Channel).map fun c => f (x.pv g c) := rfl

/-! ## The lots of a commit (R19, R83) -/

theorem setTable_setTable (s : State) (pr : Process) (x y : ProcTable) :
    (s.setTable pr x).setTable pr y = s.setTable pr y := by
  cases pr <;> rfl

/-- A lot change moves one chart from the lot's count to the other's; lot 0 has no count. -/
theorem moveLot_change {s : State} {pr : Process} {old new : Nat} (ha : lotActive s pr new = true)
    (hne : new ≠ old) : moveLot pr old new s = some (s.setTable pr { s.table pr with
      lots := (s.table pr).lots.map fun l => { l with storeCount :=
        if l.number = new then l.storeCount + 1
        else if old ≠ 0 ∧ l.number = old then l.storeCount - 1 else l.storeCount } }) := by
  rw [moveLot, if_pos ha, if_neg hne]
  unfold countUp countDown adjustCount
  by_cases h0 : old = 0
  · simp only [h0, if_true, ne_eq, not_true_eq_false, false_and, if_false]
    congr 4
    funext l
    split <;> rfl
  · rw [if_neg h0, setTable_setTable, table_setTable, if_pos rfl]
    simp only [List.map_map]
    congr 4
    funext l
    by_cases hn : l.number = new
    · simp [hn, hne]
    · by_cases ho : l.number = old <;> simp [ho, hn, h0, Ne.symm hne]

theorem moveLot_same {s : State} {pr : Process} {n : Nat} (ha : lotActive s pr n = true) :
    moveLot pr n n s = some s := (if_pos ha).trans (congrArg some (if_pos rfl))

theorem exists_moved {s : State} {pr : Process} {old new : Nat} (ha : lotActive s pr new = true) :
    ∃ moved, moveLot pr old new s = some moved ∧ (new = old → moved = s) ∧
      (new ≠ old → moved = s.setTable pr { s.table pr with
        lots := (s.table pr).lots.map fun l => { l with storeCount :=
          if l.number = new then l.storeCount + 1
          else if old ≠ 0 ∧ l.number = old then l.storeCount - 1 else l.storeCount } }) := by
  by_cases heq : new = old
  · subst heq
    exact ⟨s, moveLot_same ha, fun _ => rfl, fun hne => absurd rfl hne⟩
  · exact ⟨_, moveLot_change ha heq, fun h => absurd h heq, fun _ => rfl⟩

/-! ## The offers of a commit (R87, R89) -/

section Offers
variable {ev : Evaluation} {res : Result} {c : Chart}

theorem commitOffers_of_overdue (h : c.state = .overdue) : commitOffers ev res c =
    resumedOffer ev.reading.store ev.reading.process ev.reading.day (writtenChart ev res c).missed ::
      (if res.code = 0 then [] else [driftOffer ev.reading.store ev.reading.process (lastResultOf ev res)]) := by
  rw [commitOffers, if_pos h]
  rfl

theorem commitOffers_of_not_overdue (h : c.state ≠ .overdue) : commitOffers ev res c =
    if res.code = 0 then [] else [driftOffer ev.reading.store ev.reading.process (lastResultOf ev res)] := by
  rw [commitOffers, if_neg h]
  rfl

/-- One offer that is due: DRIFT gives the reply its notice id, RESUMED gives none (R91). -/
theorem makeOffers_drift (n : Nat) (pr : Process) (lr : LastResult) (s : State) :
    makeOffers [driftOffer n pr lr] 0 false s =
      (((offerOrOwe (driftOffer n pr lr) s).1.noticeId, (offerOrOwe (driftOffer n pr lr) s).1.isRefused),
        (offerOrOwe (driftOffer n pr lr) s).2) := rfl

theorem makeOffers_resumed (n : Nat) (pr : Process) (day missed : Nat) (rest : List Offer) (s : State) :
    makeOffers (resumedOffer n pr day missed :: rest) 0 false s =
      makeOffers rest 0 (offerOrOwe (resumedOffer n pr day missed) s).1.isRefused
        (offerOrOwe (resumedOffer n pr day missed) s).2 := rfl

end Offers

/-! ## The chart a commit writes (R79, R85 to R90) -/

section Written
variable (ev : Evaluation) (res : Result) (c : Chart)

theorem pv_writtenChart (g : Group) (ch : Channel) :
    (writtenChart ev res c).pvs.pv g ch = writtenPv (ev.pvs.pv g ch) (c.pvs.pv g ch) := PerPv.pv_tab _ g ch

theorem parked_writtenChart : (writtenChart ev res c).parked =
    c.parked.bind fun pk => if pk.day ≤ ev.reading.day then none else some pk := by
  show parkedAfter c.parked ev.reading.day = _
  cases c.parked <;> rfl

theorem expiredCount_writtenChart : (writtenChart ev res c).expiredCount =
    if lotExpired ev then satInc16 c.expiredCount else c.expiredCount := rfl

end Written

/-! ## A commit whose lot is active (R83 to R91) -/

section Commit
variable {s moved : State} {ev : Evaluation} {res : Result}
  (hm : moveLot ev.reading.process (s.chart ev.reading.store ev.reading.process).currentLot ev.reading.lot s =
    some moved)
include hm

theorem commitWrite_moved : commitWrite ev res s =
    some (commitOffers ev res (s.chart ev.reading.store ev.reading.process),
      moved.setChart ev.reading.store ev.reading.process
        (writtenChart ev res (s.chart ev.reading.store ev.reading.process))) := by
  simp only [commitWrite, hm]

theorem runCommit_moved : runCommit ev res s =
    finishOffers ev res (commitOffers ev res (s.chart ev.reading.store ev.reading.process)) 0 false
      (moved.setChart ev.reading.store ev.reading.process
        (writtenChart ev res (s.chart ev.reading.store ev.reading.process))) := by
  simp only [runCommit, commitWrite_moved hm]

theorem evalPart_moved : evalPart (.classified ev res) s =
    (offersLeft ev res (commitOffers ev res (s.chart ev.reading.store ev.reading.process)) 0 false,
      moved.setChart ev.reading.store ev.reading.process
        (writtenChart ev res (s.chart ev.reading.store ev.reading.process))) := by
  simp only [evalPart, commitWrite_moved hm]

end Commit

theorem exec_commit_whole {s : State} {c : Caller} {ev : Evaluation} {res : Result}
    (he : s.engine = some (.evaluating c (.classified ev res))) : exec (.evaluationCommit .whole) s =
      .next (finishOperation c (runCommit ev res s).1 (runCommit ev res s).2) := by
  show Host.Outcome.next (commitStage s) = _
  simp only [commitStage, he]
  rfl

theorem exec_commit_part {s : State} {c : Caller} {st : EvalStage} (he : s.engine = some (.evaluating c st))
    (hclass : ∀ ev, st ≠ .computed ev) (hend : ∀ rep, st ≠ .ending rep) : exec (.evaluationCommit .part) s =
      .next { (evalPart st s).2 with engine := some (.evaluating c (evalPart st s).1) } := by
  show Host.Outcome.next (commitPart s) = _
  cases st with
  | computed ev => exact absurd rfl (hclass ev)
  | ending rep => exact absurd rfl (hend rep)
  | classified ev res => simp only [commitPart, he]
  | offering ev res l id owed => simp only [commitPart, he]
  | parking rd => simp only [commitPart, he]

/-- Settles O39: the lots by `moveLot`, the chart by `writtenChart`, and the offers of the commit by whether the chart
was OVERDUE and the code is 0. -/
theorem commitWritesTheChart : Obligations.CommitWritesTheChart := by
  unfold Obligations.CommitWritesTheChart
  intro reply left idOf
  have hreply : reply = evaluatedReply := by
    funext ev res id owed
    unfold evaluatedReply symptomFields
    rw [map_pvList, map_pvList, bitAt_lotExpired]
    simp only [reply, List.append_assoc]
    rfl
  have hleft : left = offersLeft := by
    funext ev res offers id owed
    cases offers with
    | nil => exact congrArg EvalStage.ending (congrFun (congrFun (congrFun (congrFun hreply ev) res) id) owed)
    | cons o rest => rfl
  have hid : idOf = OfferAnswer.noticeId := funext fun a => (noticeId_eq a).symm
  clear_value left idOf reply
  subst hreply hleft hid
  refine ⟨fun s c ev res => ?written, fun s c ev res o rest id owed => ?offered⟩
  case offered =>
    intro answer after due
    have hpart : evalPart (.offering ev res (o :: rest) id owed) s = (due, after) := by
      simp only [due, ← isRefused_eq]
      rfl
    refine ⟨hpart, fun he => ?_⟩
    rw [exec_commit_part he (fun _ h => EvalStage.noConfusion h) (fun _ h => EvalStage.noConfusion h), hpart]
  case written =>
    intro rd ch here ha
    obtain ⟨moved, hm, hsame, hchange⟩ := exists_moved (old := ch.currentLot) ha
    let offers := commitOffers ev res ch
    let start := moved.setChart rd.store rd.process (writtenChart ev res ch)
    refine ⟨moved, writtenChart ev res ch, (makeOffers offers 0 false start).1.1, (makeOffers offers 0 false start).1.2,
      (makeOffers offers 0 false start).2, hsame, hchange, rfl, fun h => if_pos h, fun h => if_neg h, rfl,
      fun g x => ?pvs, parked_writtenChart ev res ch, fun h => ?expired, fun h => ?inUse, ?offers,
      ?run, fun he => ?whole⟩
    case pvs =>
      rw [pv_writtenChart]
      exact ⟨fun h => if_pos h, fun h => if_neg (by rw [h]; decide)⟩
    case expired => exact (expiredCount_writtenChart ev res ch).trans (if_pos ((lotExpired_iff ev).2 h))
    case inUse =>
      refine (expiredCount_writtenChart ev res ch).trans (if_neg fun hexp => ?_)
      obtain ⟨d, hd, hlt⟩ := (lotExpired_iff ev).1 hexp
      exact absurd (h d hd) (Nat.not_le.2 hlt)
    case run => exact runCommit_moved hm
    case whole =>
      rw [exec_commit_whole he, runCommit_moved hm]
      rfl
    case offers =>
      intro resumed drift _ first only second due
      have hdrift : makeOffers [drift] 0 false start = ((only.1.noticeId, only.1.isRefused), only.2) :=
        makeOffers_drift rd.store rd.process (lastResultOf ev res) start
      have hfirst : makeOffers [resumed] 0 false start = ((0, first.1.isRefused), first.2) :=
        makeOffers_resumed rd.store rd.process rd.day _ [] start
      have hboth : makeOffers [resumed, drift] 0 false start =
          ((second.1.noticeId, first.1.isRefused || second.1.isRefused), second.2) :=
        makeOffers_resumed rd.store rd.process rd.day _ [drift] start
      have hpart : evalPart (.classified ev res) s = (due, start) := evalPart_moved hm
      refine ⟨fun hs hc => ?neither, fun hs hc => ?drift, fun hs hc => ?resumed, fun hs hc => ?both, hpart,
        fun he => ?part⟩
      case neither =>
        rw [show offers = [] from (commitOffers_of_not_overdue hs).trans (if_pos hc)]
        exact ⟨rfl, rfl, rfl⟩
      case drift =>
        rw [show offers = [drift] from (commitOffers_of_not_overdue hs).trans (if_neg hc), hdrift]
        exact ⟨rfl, rfl, isRefused_eq _⟩
      case resumed =>
        rw [show offers = [resumed] from (commitOffers_of_overdue hs).trans (congrArg _ (if_pos hc)), hfirst]
        exact ⟨rfl, rfl, isRefused_eq _⟩
      case both =>
        rw [show offers = [resumed, drift] from (commitOffers_of_overdue hs).trans (congrArg _ (if_neg hc)), hboth,
          isRefused_eq, isRefused_eq, ← Bool.decide_or]
        exact ⟨rfl, rfl, rfl⟩
      case part =>
        rw [exec_commit_part he (fun _ h => EvalStage.noConfusion h) (fun _ h => EvalStage.noConfusion h), hpart]

end Sys2Proof.Machine

namespace Sys2Proof.Machine

/-! ## Work that leaves the charts alone

What the ports, the arbiter and most owner blocks do touches neither the calendar, nor the charts, nor the Notice Queue,
nor the Pattern Table, and takes no operation out of the engine; with the engine free it can bring one to its grant. -/

/-- Nothing that the calendar and the charts rest on is changed; a slice is granted in a sweep alone (R145, R146). -/
structure Quiet (s t : State) : Prop where
  calendar : t.calendar = s.calendar
  stores : t.stores = s.stores
  notices : t.notices = s.notices
  patterns : t.patterns = s.patterns
  engine : t.engine = s.engine ∨
    s.engine = none ∧ AtGrant t.engine ∧ (sliceInFlight t = true → s.calendar.sweep = .sweeping)

theorem sliceInFlight_iff (s : State) : sliceInFlight s = true ↔ ∃ i st, s.engine = some (.slice i st) := by
  rw [← Bool.not_eq_false, sliceInFlight_eq_false_iff]
  push Not
  rfl

theorem sliceInFlight_congr {s t : State} (h : t.engine = s.engine) : sliceInFlight t = sliceInFlight s := by
  unfold sliceInFlight
  rw [h]

namespace Quiet

theorem refl (s : State) : Quiet s s := ⟨rfl, rfl, rfl, rfl, .inl rfl⟩

theorem trans {s t u : State} (h : Quiet s t) (k : Quiet t u) : Quiet s u where
  calendar := k.calendar.trans h.calendar
  stores := k.stores.trans h.stores
  notices := k.notices.trans h.notices
  patterns := k.patterns.trans h.patterns
  engine := by
    rcases k.engine with hk | ⟨hfree, hgrant, hslice⟩
    · rcases h.engine with hh | ⟨hfree, hgrant, hslice⟩
      · exact .inl (hk.trans hh)
      · exact .inr ⟨hfree, hk ▸ hgrant, fun hs => hslice (sliceInFlight_congr hk ▸ hs)⟩
    · rcases h.engine with hh | ⟨hfree', -, -⟩
      · exact .inr ⟨hh ▸ hfree, hgrant, fun hs => h.calendar ▸ hslice hs⟩
      · exact .inr ⟨hfree', hgrant, fun hs => h.calendar ▸ hslice hs⟩

theorem modPort (s : State) (p : Port) (f : PortState → PortState) : Quiet s (s.modPort p f) :=
  ⟨calendar_modPort s p f, stores_modPort s p f, notices_modPort s p f, patterns_modPort s p f,
    .inl (engine_modPort s p f)⟩

theorem raiseAll (f : Flag) (s : State) : Quiet s (raiseAll f s) := ⟨rfl, rfl, rfl, rfl, .inl rfl⟩

theorem setTable (s : State) (pr : Process) (x : ProcTable) : Quiet s (s.setTable pr x) :=
  ⟨calendar_setTable s pr x, stores_setTable s pr x, notices_setTable s pr x, patterns_setTable s pr x,
    .inl (engine_setTable s pr x)⟩

theorem arbiter (s : State) (a : Arbiter) : Quiet s { s with arbiter := a } := ⟨rfl, rfl, rfl, rfl, .inl rfl⟩

end Quiet

/-! ## The arbiter, answers and the end of an operation -/

/-- A grant to a port is no slice (R146). -/
theorem sliceInFlight_grantTo_port {p : Port} {n : Nat} {s : State} (h : s.engine = none) :
    sliceInFlight (grantTo (.port p) n s) = false := by
  unfold grantTo
  dsimp only
  split
  · rfl
  · exact (sliceInFlight_eq_false_iff s).2 fun i st hs => by rw [h] at hs; cases hs

theorem quiet_grantTo {q : Requester} {s : State} (n : Nat) (h : s.engine = none)
    (hq : q = .sweep → s.calendar.sweep = .sweeping) : Quiet s (grantTo q n s) where
  calendar := calendar_grantTo q n s
  stores := stores_grantTo q n s
  notices := notices_grantTo q n s
  patterns := patterns_grantTo q n s
  engine := by
    refine (engine_grantTo q n s).imp_right fun hg => ⟨h, hg, fun hs => ?_⟩
    cases q with
    | port p =>
      rw [sliceInFlight_grantTo_port h] at hs
      cases hs
    | sweep => exact hq rfl

/-- SWEEP is a requester while the sweep runs (R145). -/
theorem sweeping_of_present {s : State} {q : Requester} (h : present s q = true) :
    q = .sweep → s.calendar.sweep = .sweeping := by
  rintro rfl
  exact ((present_sweep_iff s).1 h).1

theorem quiet_arbitrate (s : State) : Quiet s (arbitrate s) := by
  unfold arbitrate
  split
  · exact .refl s
  · next hfree =>
    split
    · next hq => exact quiet_grantTo 1 hfree (sweeping_of_present (List.find?_some hq))
    · exact .refl s

theorem quiet_answered (s : State) (p : Port) (r : Request) (rep : Reply) : Quiet s (s.answered p r rep) :=
  (Quiet.modPort s p _).trans (quiet_arbitrate _)

theorem quiet_burstDecision (p : Port) {s : State} (h : s.engine = none) : Quiet s (burstDecision p s) := by
  unfold burstDecision passOn
  split
  · exact quiet_grantTo _ h (by rintro ⟨⟩)
  · exact (Quiet.arbiter s _).trans (quiet_arbitrate _)

/-- The end of an operation frees the engine, and the rest of it is quiet (R149, R150). -/
theorem quiet_finishOperation (c : Caller) (rep : Reply) (s : State) :
    Quiet { s with engine := none } (finishOperation c rep s) := by
  unfold finishOperation
  split
  · exact quiet_burstDecision c.port rfl
  · exact (Quiet.modPort _ c.port _).trans (quiet_burstDecision c.port (engine_modPort _ _ _))

/-! ## The line -/

theorem quiet_onLine {f : State → State} {s : State} (h : Quiet s (f s)) : Quiet s (onLine f s) := by
  unfold onLine
  split
  · exact .refl s
  · exact h

theorem quiet_acceptRequest (p : Port) (tag : BitVec 2) (code : Octet) (body : List Octet) (s : State) :
    Quiet s (acceptRequest p tag code body s) := by
  unfold acceptRequest
  split
  · exact .modPort s p _
  · exact (Quiet.modPort s p _).trans (quiet_arbitrate _)

theorem quiet_endFrame (p : Port) (c : Content) (s : State) : Quiet s (endFrame p c s) := by
  unfold endFrame
  dsimp only
  refine (Quiet.modPort s p (leaveFrame (decodeContent c).1)).trans ?_
  split
  · exact .modPort _ p _
  · exact quiet_acceptRequest p _ _ _ _
  · exact .modPort _ p _

theorem quiet_receiveOctet (p : Port) (o : Octet) (s : State) : Quiet s (receiveOctet p o s) := by
  unfold receiveOctet
  split
  · split
    · exact .modPort s p _
    · exact .refl s
  · exact .refl s
  · split
    · exact .modPort s p _
    · split
      · split <;> exact .modPort s p _
      · split
        · exact quiet_endFrame p _ s
        · split <;> exact .modPort s p _

theorem quiet_receiveOctets (p : Port) (octets : List Octet) (s : State) : Quiet s (receiveOctets p octets s) := by
  induction octets generalizing s with
  | nil => exact .refl s
  | cons o rest ih => exact (quiet_receiveOctet p o s).trans (ih _)

theorem quiet_frameAbandoned (p : Port) (cause : AbandonCause) (s : State) : Quiet s (frameAbandoned p cause s) := by
  unfold frameAbandoned
  split
  · exact .modPort s p _
  · exact .refl s

theorem quiet_abortFrame (p : Port) (s : State) : Quiet s (abortFrame p s) := by
  unfold abortFrame
  split
  · exact .modPort s p _
  · exact .refl s

theorem quiet_resetRelease (a b c : Rights) (s : State) : ∃ t, execResetRelease a b c s = .next t ∧ Quiet s t := by
  refine ⟨_, rfl, ?_⟩
  split
  · exact ⟨rfl, rfl, rfl, rfl, .inl rfl⟩
  · exact .refl s

/-! ## Owner work on ports and tables -/

theorem quiet_stageLotTake (p : Port) (o : ByteOrder) (b : List Octet) (s : State) :
    Quiet s (stageLotTake p o b s).2 := by
  unfold stageLotTake
  split
  · exact .refl s
  · split
    · exact .refl s
    · dsimp only
      exact .modPort s p _

theorem quiet_promoteLotTake (p : Port) (o : ByteOrder) (b : List Octet) (s : State) :
    Quiet s (promoteLotTake p o b s).2 := by
  unfold promoteLotTake promoteStaged
  split
  · exact .refl s
  · dsimp only
    split
    · exact .refl s
    · split
      · exact .refl s
      · split
        · exact .refl s
        · exact (Quiet.setTable s _ _).trans (.raiseAll _ _)

theorem quiet_retireLotTake (o : ByteOrder) (b : List Octet) (s : State) : Quiet s (retireLotTake o b s).2 := by
  unfold retireLotTake
  split
  · exact .refl s
  · split
    · exact .refl s
    · split
      · exact .refl s
      · exact (Quiet.setTable s _ _).trans (.raiseAll _ _)

theorem quiet_readLotTake (p : Port) (o : ByteOrder) (b : List Octet) (s : State) :
    Quiet s (readLotTake p o b s).2 := by
  unfold readLotTake
  split
  · split
    · exact .refl s
    · split <;> exact .refl s
  · split <;> exact .refl s
  · exact .refl s

theorem quiet_listLotsTake (o : ByteOrder) (b : List Octet) (s : State) : Quiet s (listLotsTake o b s).2 := by
  unfold listLotsTake
  split <;> exact .refl s

theorem quiet_stageProfileTake (p : Port) (o : ByteOrder) (b : List Octet) (s : State) :
    Quiet s (stageProfileTake p o b s).2 := by
  unfold stageProfileTake
  split
  · exact .refl s
  · dsimp only
    exact .modPort s p _

theorem quiet_promoteProfileTake (p : Port) (o : ByteOrder) (b : List Octet) (s : State) :
    Quiet s (promoteProfileTake p o b s).2 := by
  unfold promoteProfileTake promoteStagedProfile
  split
  · exact .refl s
  · dsimp only
    split
    · exact .refl s
    · split
      · exact .refl s
      · split
        · exact (Quiet.setTable s _ _).trans (.raiseAll _ _)
        · exact .refl s

theorem quiet_readProfileTake (p : Port) (o : ByteOrder) (b : List Octet) (s : State) :
    Quiet s (readProfileTake p o b s).2 := by
  unfold readProfileTake
  split
  · split <;> exact .refl s
  · split <;> exact .refl s
  · exact .refl s

theorem quiet_readPatternTake (o : ByteOrder) (b : List Octet) (s : State) : Quiet s (readPatternTake o b s).2 := by
  unfold readPatternTake
  split <;> exact .refl s

theorem quiet_listNoticesTake (o : ByteOrder) (b : List Octet) (s : State) : Quiet s (listNoticesTake o b s).2 := by
  unfold listNoticesTake
  dsimp only
  split <;> exact .refl s

theorem quiet_setWindowTake (o : ByteOrder) (b : List Octet) (s : State) : Quiet s (setWindowTake o b s).2 := by
  unfold setWindowTake
  dsimp only
  split
  · exact .refl s
  · split
    · dsimp only
      exact .modPort s _ _
    · exact .refl s

theorem quiet_setPortOptionsTake (p : Port) (o : ByteOrder) (b : List Octet) (s : State) :
    Quiet s (setPortOptionsTake p o b s).2 := by
  unfold setPortOptionsTake
  split
  · exact .refl s
  · dsimp only
    exact .modPort s p _

theorem quiet_changeFlags (p : Port) (f : PortState → PortState) (s : State) : Quiet s (changeFlags p f s).2 :=
  .modPort s p f

end Sys2Proof.Machine

namespace Sys2Proof.Machine

/-! ## The number of charts that are not OFF (R53) -/

theorem enrolledCharts_eq {s : State} (h : StoresOk s) : enrolledCharts s.stores =
    ∑ m ∈ Finset.range Config.stores, ((s.chart m .f).enrolled.toNat + (s.chart m .p).enrolled.toNat) :=
  sum_listed_eq (fun e => e.film.enrolled.toNat + e.paper.enrolled.toNat) rfl h

theorem enrolledCharts_congr {s t : State} (hs : StoresOk s) (ht : StoresOk t)
    (h : ∀ n pr, (t.chart n pr).enrolled = (s.chart n pr).enrolled) :
    enrolledCharts t.stores = enrolledCharts s.stores := by
  rw [enrolledCharts_eq hs, enrolledCharts_eq ht]
  simp only [h]

/-- The number follows the one chart that is written. -/
theorem enrolledCharts_setChart {s : State} (hs : StoresOk s) {n : Nat} (hn : n < Config.stores) (pr : Process)
    (c : Chart) : enrolledCharts (s.setChart n pr c).stores + (s.chart n pr).enrolled.toNat =
      enrolledCharts s.stores + c.enrolled.toNat := by
  rw [enrolledCharts_eq hs, enrolledCharts_eq (storesOk_setChart n pr c hs),
    ← Finset.add_sum_erase _ _ (Finset.mem_range.2 hn), ← Finset.add_sum_erase _ _ (Finset.mem_range.2 hn),
    Finset.sum_congr rfl fun m hm => by
      rw [chart_setChart hs, chart_setChart hs, if_neg fun h => Finset.ne_of_mem_erase hm h.1,
        if_neg fun h => Finset.ne_of_mem_erase hm h.1]]
  simp only [chart_setChart hs]
  cases pr <;> simp [hn] <;> omega

/-- With no chart counted every chart is OFF (R53). -/
theorem off_of_enrolledCharts_eq_zero {s : State} (hs : StoresOk s) (h : enrolledCharts s.stores = 0) (n : Nat)
    (pr : Process) : (s.chart n pr).enrolled = false := by
  by_contra hon
  have hen := Bool.eq_true_of_not_eq_false hon
  have hle := Finset.single_le_sum (s := Finset.range Config.stores)
    (f := fun m => (s.chart m .f).enrolled.toNat + (s.chart m .p).enrolled.toNat) (fun _ _ => Nat.zero_le _)
    (Finset.mem_range.2 (store_lt_of_enrolled hs hen))
  rw [← enrolledCharts_eq hs, h] at hle
  cases pr <;> simp [hen] at hle

theorem enrolmentInFlight_of_atGrant {e : Option Operation} (h : AtGrant e) : enrolmentInFlight e = 0 := by
  cases h <;> rfl

/-! ## What is in flight, on a later day or beside owner work -/

theorem ReadingOk.mono {d d' : Nat} {rd : Reading} (h : ReadingOk d rd) (hd : d ≤ d') : ReadingOk d' rd :=
  { h with notFuture := h.notFuture.trans hd }

theorem EvaluationOk.mono {d d' : Nat} {ev : Evaluation} (h : EvaluationOk d ev) (hd : d ≤ d') : EvaluationOk d' ev :=
  { h with reading := h.reading.mono hd }

section Mono
variable {s t : State} (hc : ∀ n pr, t.chart n pr = s.chart n pr) (hd : s.calendar.day ≤ t.calendar.day)
include hc

theorem NotStale.congr {rd : Reading} (h : NotStale s rd) : NotStale t rd := fun l hl => h l (hc _ _ ▸ hl)

include hd

theorem EvalStageOk.mono {st : EvalStage} (h : EvalStageOk s st) : EvalStageOk t st := by
  cases st with
  | computed ev => exact ⟨h.1.mono hd, h.2.congr hc⟩
  | classified ev res => exact ⟨h.1.mono hd, h.2.1.congr hc, h.2.2⟩
  | offering ev res offers id owed => exact h
  | parking rd => trivial
  | ending rep => trivial

theorem VisitStageOk.mono {st : VisitStage} (h : VisitStageOk s st) : VisitStageOk t st := by
  cases st with
  | snapped rd lot profile => exact ⟨h.1.mono hd, h.2.1.congr hc, h.2.2⟩
  | retry st => exact EvalStageOk.mono hc hd h
  | arrive => trivial
  | miss => trivial
  | overdue missed => trivial
  | owed cls => trivial

end Mono

/-- A slice in flight stands at a stage of the visit of a chart: past its arrival the chart is not OFF, and a retry is
that of this chart (R132, R134). -/
def VisitReady (s : State) (n : Nat) (pr : Process) (st : VisitStage) : Prop :=
  (st ≠ .arrive → (s.chart n pr).enrolled = true) ∧ VisitStageOk s st ∧
    ∀ rd, st.reading? = some rd → rd.store = n ∧ rd.process = pr

theorem engineValuesOk_slice {s : State} {i : Nat} {st : VisitStage} (h : s.engine = some (.slice i st)) :
    EngineValuesOk s ↔ VisitReady s (sliceStore s i) (sliceProcess i) st := by
  unfold EngineValuesOk
  rw [h]
  rfl

theorem engineValuesOk_evaluating {s : State} {c : Caller} {st : EvalStage} (h : s.engine = some (.evaluating c st)) :
    EngineValuesOk s ↔ EvalStageOk s st := by
  unfold EngineValuesOk
  rw [h]

theorem engineValuesOk_enrolling {s : State} {c : Caller} {n lot : Nat} {pr : Process}
    (h : s.engine = some (.enrolling c n pr lot)) : EngineValuesOk s ↔ lot ≤ Config.max16 := by
  unfold EngineValuesOk
  rw [h]

theorem engineValuesOk_restoring {s : State} {c : Caller} {n : Nat} {pr : Process} {ch : Chart}
    (h : s.engine = some (.restoring c n pr ch)) : EngineValuesOk s ↔ ChartOk s.calendar.day ch := by
  unfold EngineValuesOk
  rw [h]

theorem visitReady_arrive (s : State) (n : Nat) (pr : Process) : VisitReady s n pr .arrive :=
  ⟨fun h => absurd rfl h, trivial, fun _ h => nomatch h⟩

theorem engineValuesOk_of_atGrant {s : State} (h : AtGrant s.engine) : EngineValuesOk s := by
  cases h' : s.engine with
  | none =>
    unfold EngineValuesOk
    rw [h']
    trivial
  | some op =>
    rw [h'] at h
    cases h with
    | granted c =>
      unfold EngineValuesOk
      rw [h']
      trivial
    | slice => exact (engineValuesOk_slice h').2 (visitReady_arrive s _ _)

/-- What is in flight stays in range beside work that writes no chart and takes the calendar day no lower. -/
theorem EngineValuesOk.mono {s t : State} (h : EngineValuesOk s) (he : t.engine = s.engine)
    (hc : ∀ n pr, t.chart n pr = s.chart n pr) (hd : s.calendar.day ≤ t.calendar.day)
    (hn : sliceInFlight s = true → t.calendar.nextStore = s.calendar.nextStore) : EngineValuesOk t := by
  cases hs : s.engine with
  | none => exact engineValuesOk_of_atGrant (he.trans hs ▸ .free)
  | some op =>
    have ht := he.trans hs
    cases op with
    | granted c => exact engineValuesOk_of_atGrant (ht ▸ .granted c)
    | evaluating c st =>
      exact (engineValuesOk_evaluating ht).2 (.mono hc hd ((engineValuesOk_evaluating hs).1 h))
    | enrolling c n pr lot => exact (engineValuesOk_enrolling ht).2 ((engineValuesOk_enrolling hs).1 h)
    | withdrawing c n pr =>
      unfold EngineValuesOk
      rw [ht]
      trivial
    | restoring c n pr ch => exact (engineValuesOk_restoring ht).2 (((engineValuesOk_restoring hs).1 h).mono hd)
    | slice i st =>
      have hstore : sliceStore t i = sliceStore s i := by
        unfold sliceStore
        rw [hn ((sliceInFlight_iff s).2 ⟨i, st, hs⟩)]
      obtain ⟨hon, hstage, hreading⟩ := (engineValuesOk_slice hs).1 h
      rw [engineValuesOk_slice ht, hstore]
      exact ⟨fun hne => hc _ _ ▸ hon hne, .mono hc hd hstage, hreading⟩

/-! ## Charts, notices and patterns in range -/

/-- What `ChartsOk` says but for the operation in flight, with the form of the Store Table and the range of C. -/
structure ValuesOk (s : State) : Prop where
  stores : StoresOk s
  day : s.calendar.day ≤ Config.max16
  charts : ∀ n pr, ChartOk s.calendar.day (s.chart n pr)
  notices : ∀ e ∈ s.notices.entries, (s.chart e.store e.process).enrolled = true
  patterns : ∀ i : Fin 16, s.patterns[i].code ≤ 59

/-- The charts as they are, on the same or a later day, with no new notice. -/
theorem ValuesOk.of_stores {s t : State} (h : ValuesOk s) (hs : t.stores = s.stores)
    (hd : s.calendar.day ≤ t.calendar.day) (hmax : t.calendar.day ≤ Config.max16)
    (hn : ∀ e ∈ t.notices.entries, e ∈ s.notices.entries) (hp : ∀ i : Fin 16, t.patterns[i].code ≤ 59) :
    ValuesOk t where
  stores := storesOk_of_stores hs h.stores
  day := hmax
  charts n pr := by
    rw [chart_of_stores hs]
    exact (h.charts n pr).mono hd
  notices e he := by
    rw [chart_of_stores hs]
    exact h.notices e (hn e he)
  patterns := hp

/-- What a part in order comes with at a step: the invariants on which those of the charts rest. -/
structure Sound (s : State) : Prop where
  reference : ReferenceOk s
  calendar : CalendarOk s
  enrolment : EnrolmentOk s
  charts : ChartsOk s

namespace Sound
variable {s : State}

theorem values (h : Sound s) : ValuesOk s where
  stores := h.enrolment.1
  day := h.calendar.1
  charts := h.charts.1
  notices := h.charts.2.1
  patterns := h.charts.2.2.1

theorem engine (h : Sound s) : EngineValuesOk s := h.charts.2.2.2

theorem engineChart (h : Sound s) : EngineChartOk s := h.enrolment.2.1

end Sound

/-! ## What every step keeps -/

/-- The calendar, the Store Table, the enrolment count and the charts' values are kept (R38, R39, R53, R127). -/
structure StepKeeps (s t : State) : Prop where
  calendar : CalendarOk s → CalendarOk t
  stores : StoresOk s → StoresOk t
  enrolment : EnrolmentOk s → EnrolmentOk t
  charts : Sound s → ChartsOk t

theorem CalendarOk.of_calendar {s t : State} (h : CalendarOk s) (hc : t.calendar = s.calendar)
    (hslice : sliceInFlight t = true → s.calendar.sweep = .sweeping) : CalendarOk t := by
  unfold CalendarOk at h ⊢
  obtain ⟨hday, hclosing, hwindow, hnext, hidle, hsweep, -⟩ := h
  rw [hc]
  exact ⟨hday, hclosing, hwindow, hnext, hidle, hsweep, hslice⟩

theorem CalendarOk.sweeping {s : State} (h : CalendarOk s) (hs : sliceInFlight s = true) :
    s.calendar.sweep = .sweeping := h.2.2.2.2.2.2 hs

/-- The charts, notices and patterns as they are on the same day, with what is then in flight in range. -/
theorem ChartsOk.of_stores {s t : State} (h : ChartsOk s) (hs : t.stores = s.stores)
    (hd : t.calendar.day = s.calendar.day) (hn : t.notices = s.notices) (hp : t.patterns = s.patterns)
    (he : EngineValuesOk t) : ChartsOk t := by
  obtain ⟨hcharts, hnotices, hpatterns, -⟩ := h
  refine ⟨fun n pr => ?_, fun e hmem => ?_, fun i => ?_, he⟩
  · rw [hd, chart_of_stores hs]
    exact hcharts n pr
  · rw [chart_of_stores hs]
    exact hnotices e (hn ▸ hmem)
  · rw [hp]
    exact hpatterns i

namespace StepKeeps
variable {s t u : State}

theorem refl (s : State) : StepKeeps s s := ⟨id, id, id, fun h => h.charts⟩

/-- Quiet work after a step. -/
theorem then_quiet (h : StepKeeps s t) (q : Quiet t u) : StepKeeps s u where
  calendar hs := by
    refine (h.calendar hs).of_calendar q.calendar fun hu => ?_
    rcases q.engine with he | ⟨-, -, hslice⟩
    · exact (h.calendar hs).sweeping (sliceInFlight_congr he ▸ hu)
    · exact hslice hu
  stores hs := storesOk_of_stores q.stores (h.stores hs)
  enrolment hs := by
    obtain ⟨hstores, hchart, hcount⟩ := h.enrolment hs
    refine ⟨storesOk_of_stores q.stores hstores, ?_, ?_⟩
    · rcases q.engine with he | ⟨-, hgrant, -⟩
      · exact hchart.congr he fun n pr => by rw [chart_of_stores q.stores]
      · exact engineChartOk_of_atGrant hgrant
    · rw [q.calendar, q.stores, hcount]
      rcases q.engine with he | ⟨hfree, hgrant, -⟩
      · rw [he]
      · rw [enrolmentInFlight_of_atGrant hgrant, hfree]
        rfl
  charts hs := by
    have hu := h.charts hs
    refine hu.of_stores q.stores (congrArg Calendar.day q.calendar) q.notices q.patterns ?_
    rcases q.engine with he | ⟨-, hgrant, -⟩
    · exact hu.2.2.2.mono he (chart_of_stores q.stores) (Nat.le_of_eq (congrArg Calendar.day q.calendar.symm))
        fun _ => congrArg Calendar.nextStore q.calendar
    · exact engineValuesOk_of_atGrant hgrant

theorem of_quiet (q : Quiet s t) : StepKeeps s t := (refl s).then_quiet q

end StepKeeps

end Sys2Proof.Machine

namespace Sys2Proof.Machine

/-! ## Work of the engine on charts

What a step of an evaluation or of a visit does to the charts: the calendar is kept, no chart is enrolled or withdrawn,
and with what the operation in flight has to hold (the guard) the values stay in range. -/

/-- Work of the engine that keeps the values in range under a guard. -/
structure ChartWork (G : Prop) (s t : State) : Prop where
  calendar : t.calendar = s.calendar
  stores : StoresOk s → StoresOk t
  enrolled : StoresOk s → ∀ n pr, (t.chart n pr).enrolled = (s.chart n pr).enrolled
  values : G → ValuesOk s → ValuesOk t

namespace ChartWork
variable {G H : Prop} {s t u : State}

theorem refl (G : Prop) (s : State) : ChartWork G s s := ⟨rfl, id, fun _ _ _ => rfl, fun _ => id⟩

theorem guard (h : ChartWork H s t) (hg : G → ValuesOk s → H) : ChartWork G s t :=
  { h with values := fun g hs => h.values (hg g hs) hs }

/-- One work after another, whose guard the first leaves met. -/
theorem trans (h : ChartWork G s t) (k : ChartWork H t u) (hg : G → ValuesOk s → ValuesOk t → H) : ChartWork G s u where
  calendar := k.calendar.trans h.calendar
  stores hs := k.stores (h.stores hs)
  enrolled hs n pr := (k.enrolled (h.stores hs) n pr).trans (h.enrolled hs n pr)
  values g hs := k.values (hg g hs (h.values g hs)) (h.values g hs)

/-- Work on a chart that is not OFF, after other work. -/
theorem trans_enrolled {n : Nat} {pr : Process} (h : ChartWork G s t)
    (k : ChartWork ((t.chart n pr).enrolled = true) t u) (hg : G → (s.chart n pr).enrolled = true) :
    ChartWork G s u :=
  h.trans k fun g hs _ => (h.enrolled hs.stores n pr).trans (hg g)

/-- A chart that is not OFF is written, and stays so. -/
theorem setChart {n : Nat} {pr : Process} {c : Chart} (he : c.enrolled = (s.chart n pr).enrolled)
    (hc : G → ValuesOk s → ChartOk s.calendar.day c) : ChartWork G s (s.setChart n pr c) := by
  have hen : StoresOk s → ∀ m qr, ((s.setChart n pr c).chart m qr).enrolled = (s.chart m qr).enrolled := by
    intro hs m qr
    rw [chart_setChart hs]
    split
    · next hm =>
      obtain ⟨rfl, -, rfl⟩ := hm
      exact he
    · rfl
  refine ⟨rfl, storesOk_setChart n pr c, hen, fun g hs => ⟨storesOk_setChart n pr c hs.stores, hs.day,
    fun m qr => ?_, fun e hmem => ?_, hs.patterns⟩⟩
  · rw [chart_setChart hs.stores]
    split
    · exact hc g hs
    · exact hs.charts m qr
  · rw [hen hs.stores]
    exact hs.notices e hmem

theorem modChart {n : Nat} {pr : Process} {f : Chart → Chart} (he : ∀ c, (f c).enrolled = c.enrolled)
    (hc : G → ValuesOk s → ChartOk s.calendar.day (f (s.chart n pr))) : ChartWork G s (s.modChart n pr f) :=
  setChart (he _) hc

end ChartWork

/-! ## Offers -/

/-- Every notice after an offer names a chart that one named before, or the chart of the offer (R114). -/
theorem mem_takeOffer {o : Offer} {s : State} {e : Notice} (h : e ∈ (takeOffer o s).2.notices.entries) :
    (e.store = o.store ∧ e.process = o.process) ∨
      ∃ x ∈ s.notices.entries, e.store = x.store ∧ e.process = x.process := by
  unfold takeOffer at h
  dsimp only at h
  split at h
  · obtain ⟨x, hx, rfl⟩ := List.mem_map.1 h
    refine .inr ⟨x, hx, ?_⟩
    split <;> exact ⟨rfl, rfl⟩
  · split at h
    · have h' : e ∈ s.notices.entries ++ [newEntry (idForInsertion s.notices) o] := by
        split at h <;> exact h
      rcases List.mem_append.1 h' with hx | hx
      · exact .inr ⟨e, hx, rfl, rfl⟩
      · obtain rfl := List.mem_singleton.1 hx
        exact .inl ⟨rfl, rfl⟩
    · exact .inr ⟨e, h, rfl, rfl⟩

theorem stores_takeOffer (o : Offer) (s : State) : (takeOffer o s).2.stores = s.stores := by rw [takeOffer_frame]

theorem chartWork_takeOffer (o : Offer) (s : State) :
    ChartWork ((s.chart o.store o.process).enrolled = true) s (takeOffer o s).2 := by
  have hchart := chart_of_stores (stores_takeOffer o s)
  have hcal : (takeOffer o s).2.calendar = s.calendar := by rw [takeOffer_frame]
  refine ⟨hcal, storesOk_of_stores (stores_takeOffer o s), fun _ n pr => by rw [hchart], fun hen hs =>
    ⟨storesOk_of_stores (stores_takeOffer o s) hs.stores, hcal ▸ hs.day, fun n pr => ?_, fun e he => ?_, ?_⟩⟩
  · rw [hchart, hcal]
    exact hs.charts n pr
  · rw [hchart]
    rcases mem_takeOffer he with ⟨hn, hp⟩ | ⟨x, hx, hn, hp⟩
    · rw [hn, hp]
      exact hen
    · rw [hn, hp]
      exact hs.notices x hx
  · rw [takeOffer_frame]
    exact hs.patterns

/-- A change of a chart's owed marks (R47). -/
theorem chartWork_owed {n : Nat} {pr : Process} (f : Chart → Owed) (s : State) :
    ChartWork ((s.chart n pr).enrolled = true) s (s.modChart n pr fun c => { c with owed := f c }) :=
  .modChart (fun _ => rfl) fun hen hs => (hs.charts n pr).withOwed ((enrolled_iff _).1 hen) _

theorem chartWork_offerOrOwe (o : Offer) (s : State) :
    ChartWork ((s.chart o.store o.process).enrolled = true) s (offerOrOwe o s).2 := by
  have h := chartWork_takeOffer o s
  unfold offerOrOwe
  generalize takeOffer o s = out at h ⊢
  rcases out with ⟨_ | _ | _, t⟩
  · exact h
  · exact h
  · exact h.trans_enrolled (chartWork_owed (fun c => c.owed.mark o.cls) t) id

/-- Offers of one chart, in order (R89). -/
theorem chartWork_makeOffers {n : Nat} {pr : Process} (l : List Offer) (id : Nat) (owed : Bool) (s : State) :
    ChartWork ((s.chart n pr).enrolled = true ∧ ∀ o ∈ l, o.store = n ∧ o.process = pr) s
      (makeOffers l id owed s).2 := by
  induction l generalizing id owed s with
  | nil => exact .refl _ s
  | cons o rest ih =>
    have first : ChartWork ((s.chart n pr).enrolled = true ∧ ∀ x ∈ o :: rest, x.store = n ∧ x.process = pr) s
        (offerOrOwe o s).2 := (chartWork_offerOrOwe o s).guard fun g _ => by
      obtain ⟨hn, hp⟩ := g.2 o List.mem_cons_self
      rw [hn, hp]
      exact g.1
    exact first.trans (ih _ _ _) fun g hs _ =>
      ⟨(first.enrolled hs.stores n pr).trans g.1, fun x hx => g.2 x (List.mem_cons_of_mem o hx)⟩

/-! ## Evaluations -/

/-- An evaluation in flight has what it writes and offers in range, and its chart is not OFF. -/
def EvalReady (s : State) (st : EvalStage) : Prop := EvalStageOk s st ∧ ReadingEnrolled s st.reading?

/-- A reading may be parked at its chart (R50). -/
def ParkReady (s : State) (rd : Reading) : Prop :=
  (s.chart rd.store rd.process).enrolled = true ∧ ReadingOk s.calendar.day rd ∧ NotStale s rd

theorem chartWork_fillSlot (rd : Reading) (s : State) : ChartWork (ParkReady s rd) s (fillSlot rd s) :=
  .modChart (fun _ => rfl) fun ⟨hen, hrd, hstale⟩ hs =>
    (hs.charts _ _).park ((enrolled_iff _).1 hen) ⟨hrd.lot, hrd.notFuture, hstale, hrd.codes⟩

theorem chartWork_finishHeld (rd : Reading) (s : State) :
    ChartWork ((s.chart rd.store rd.process).enrolled = true) s (finishHeld rd s).2 :=
  chartWork_offerOrOwe (heldOffer rd.store rd.process rd.day rd.lot) s

/-- A reading is parked whole (R84). -/
theorem chartWork_park (rd : Reading) (s : State) : ChartWork (ParkReady s rd) s (finishHeld rd (fillSlot rd s)).2 :=
  (chartWork_fillSlot rd s).trans_enrolled (chartWork_finishHeld rd _) And.left

theorem chartWork_setTable {G : Prop} (s : State) (pr : Process) (x : ProcTable) :
    ChartWork G s (s.setTable pr x) := by
  have hchart := chart_of_stores (stores_setTable s pr x)
  refine ⟨calendar_setTable s pr x, storesOk_of_stores (stores_setTable s pr x), fun _ n qr => by rw [hchart],
    fun _ hs => hs.of_stores (stores_setTable s pr x) ?_ ?_ (fun e he => ?_) ?_⟩
  · rw [calendar_setTable]
  · rw [calendar_setTable]
    exact hs.day
  · rwa [notices_setTable] at he
  · rw [patterns_setTable]
    exact hs.patterns

theorem chartWork_moveLot {G : Prop} {pr : Process} {old new : Nat} {s t : State} (h : moveLot pr old new s = some t) :
    ChartWork G s t := by
  unfold moveLot at h
  split at h
  · cases h
    split
    · exact .refl G s
    · unfold countUp countDown
      split
      · exact chartWork_setTable s pr _
      · exact (chartWork_setTable s pr _).trans (chartWork_setTable (G := True) _ pr _) fun _ _ _ => trivial
  · cases h

/-- The commit's writes (R83 to R88). -/
theorem chartWork_commitWrite {ev : Evaluation} {res : Result} {s t : State} {offers : List Offer}
    (h : commitWrite ev res s = some (offers, t)) :
    ChartWork (EvalReady s (.classified ev res)) s t := by
  unfold commitWrite at h
  dsimp only at h
  split at h
  case h_2 => cases h
  case h_1 s' hmove =>
    cases h
    have hchart := chart_of_stores (moveLot_eq_some hmove).2.1 ev.reading.store ev.reading.process
    have hmoved := chartWork_moveLot (G := EvalReady s (.classified ev res)) hmove
    refine hmoved.trans (ChartWork.setChart (G := EvalReady s (.classified ev res)) ?_ fun g hs => ?_) fun g _ _ => g
    · rw [enrolled_writtenChart, hchart]
    · obtain ⟨⟨hev, -, hres⟩, hen⟩ := g
      have hold := hs.charts ev.reading.store ev.reading.process
      rw [hmoved.calendar, hchart] at hold
      rw [hmoved.calendar]
      exact hold.write ((enrolled_iff _).1 (hen _ rfl)) (hmoved.calendar ▸ hs.day) hev hres

/-- The offers of a commit are those of its reading's chart (R89). -/
theorem commitOffers_chart {ev : Evaluation} {res : Result} {c : Chart} :
    ∀ o ∈ commitOffers ev res c, o.store = ev.reading.store ∧ o.process = ev.reading.process := by
  intro o ho
  rcases List.mem_append.1 ho with ho | ho
  · split at ho
    · obtain rfl := List.mem_singleton.1 ho
      exact ⟨rfl, rfl⟩
    · cases ho
  · split at ho
    · cases ho
    · obtain rfl := List.mem_singleton.1 ho
      exact ⟨rfl, rfl⟩

theorem offers_commitWrite {ev : Evaluation} {res : Result} {s t : State} {offers : List Offer}
    (h : commitWrite ev res s = some (offers, t)) :
    ∀ o ∈ offers, o.store = ev.reading.store ∧ o.process = ev.reading.process := by
  unfold commitWrite at h
  dsimp only at h
  split at h
  · cases h
    exact commitOffers_chart
  · cases h

theorem parkReady_classified {ev : Evaluation} {res : Result} {s : State} (h : EvalReady s (.classified ev res)) :
    ParkReady s ev.reading := ⟨h.2 _ rfl, h.1.1.reading, h.1.2.1⟩

theorem chartWork_runCommit (ev : Evaluation) (res : Result) (s : State) :
    ChartWork (EvalReady s (.classified ev res)) s (runCommit ev res s).2 := by
  unfold runCommit
  split
  · next offers t h =>
    have hw := chartWork_commitWrite h
    exact hw.trans (chartWork_makeOffers offers 0 false t) fun g hs _ =>
      ⟨(hw.enrolled hs.stores _ _).trans (g.2 _ rfl), offers_commitWrite h⟩
  · exact (chartWork_park ev.reading s).guard fun g _ => parkReady_classified g

/-- CLASSIFY brings an evaluation to its next stage in range (R82, R94). -/
theorem evalReady_classify {ev : Evaluation} {s : State} (h : EvalReady s (.computed ev)) (hs : ValuesOk s) :
    EvalReady s (.classified ev (classifyNow ev s)) := by
  obtain ⟨⟨hev, hstale⟩, hen⟩ := h
  refine ⟨⟨hev, hstale, classifyWith_ok (fun i => ?_) hev.pvs⟩, hen⟩
  unfold entryAt
  rw [List.getD_eq_getElem?_getD]
  by_cases hi : i < 16
  · simpa [hi] using hs.patterns ⟨i, hi⟩
  · simp [hi, PatternEntry.zero]

theorem chartWork_runEval (st : EvalStage) (s : State) : ChartWork (EvalReady s st) s (runEval st s).2 := by
  cases st with
  | computed ev => exact (chartWork_runCommit ev _ s).guard evalReady_classify
  | classified ev res => exact chartWork_runCommit ev res s
  | offering ev res l id owed => exact (chartWork_makeOffers l id owed s).guard fun g _ => ⟨g.2 _ rfl, g.1⟩
  | parking rd => exact (chartWork_finishHeld rd s).guard fun g _ => g.2 _ rfl
  | ending rep => exact .refl _ s

theorem chartWork_evalPart (st : EvalStage) (s : State) : ChartWork (EvalReady s st) s (evalPart st s).2 := by
  cases st with
  | computed ev => exact .refl _ s
  | classified ev res =>
    unfold evalPart
    dsimp only
    split
    · next h => exact chartWork_commitWrite h
    · exact (chartWork_fillSlot ev.reading s).guard fun g _ => parkReady_classified g
  | offering ev res l id owed =>
    cases l with
    | nil => exact .refl _ s
    | cons o rest =>
      refine (chartWork_offerOrOwe o s).guard fun g _ => ?_
      obtain ⟨hn, hp⟩ := g.1 o List.mem_cons_self
      rw [hn, hp]
      exact g.2 _ rfl
  | parking rd => exact (chartWork_finishHeld rd s).guard fun g _ => g.2 _ rfl
  | ending rep => exact .refl _ s

theorem evalStageOk_offersLeft {ev : Evaluation} {res : Result} {l : List Offer} {id : Nat} {owed : Bool} {s : State}
    (h : ∀ o ∈ l, o.store = ev.reading.store ∧ o.process = ev.reading.process) :
    EvalStageOk s (offersLeft ev res l id owed) := by
  cases l with
  | nil => trivial
  | cons o rest => exact h

/-- The next stage of an evaluation is in range. -/
theorem evalStageOk_evalPart {st : EvalStage} {s : State} (h : EvalReady s st) (hs : ValuesOk s) :
    EvalStageOk (evalPart st s).2 (evalPart st s).1 := by
  cases st with
  | computed ev => exact (evalReady_classify h hs).1
  | classified ev res =>
    unfold evalPart
    dsimp only
    split
    · next hw => exact evalStageOk_offersLeft (offers_commitWrite hw)
    · trivial
  | offering ev res l id owed =>
    cases l with
    | nil => trivial
    | cons o rest => exact evalStageOk_offersLeft fun x hx => h.1 x (List.mem_cons_of_mem o hx)
  | parking rd => trivial
  | ending rep => trivial

end Sys2Proof.Machine

namespace Sys2Proof.Machine

/-! ## Visits of the sweep (R132 to R138) -/

theorem chartWork_recheck (rd : Reading) (lot : LotRecord) (profile : Profile) (s : State) :
    ChartWork ((s.chart rd.store rd.process).enrolled = true) s (recheck rd lot profile s).2 := by
  unfold recheck
  split
  · dsimp only
    exact .modChart (fun _ => rfl) fun hen hs => (hs.charts _ _).discard ((enrolled_iff _).1 hen)
  · exact .refl _ s

/-- A parked reading that is not too late is evaluated from its snapshots (R134). -/
theorem evalReady_recheck {rd : Reading} {lot : LotRecord} {profile : Profile} {s : State} {ev : Evaluation}
    (h : (recheck rd lot profile s).1 = some ev) (hen : (s.chart rd.store rd.process).enrolled = true)
    (hst : VisitStageOk s (.snapped rd lot profile)) (hs : ValuesOk s) :
    EvalReady (recheck rd lot profile s).2 (.computed ev) := by
  obtain ⟨hrd, hstale, hrev, hweight⟩ := hst
  unfold recheck at h ⊢
  split at h
  · cases h
  · next hday =>
    cases h
    rw [if_neg hday]
    refine ⟨⟨compute_ok (hs.charts _ _).pvs hweight hrd hrev, hstale⟩, ?_⟩
    rintro _ ⟨⟩
    exact hen

theorem chartWork_countMiss (n : Nat) (pr : Process) (s : State) :
    ChartWork ((s.chart n pr).enrolled = true) s (countMiss n pr s).2 := by
  unfold countMiss
  dsimp only
  split
  · exact .setChart (enrolled_missedChart _ _) fun hen hs => (hs.charts n pr).miss ((enrolled_iff _).1 hen) _
  · exact .refl _ s

theorem chartWork_offerOverdue (n : Nat) (pr : Process) (missed : Nat) (s : State) :
    ChartWork ((s.chart n pr).enrolled = true) s (offerOverdue n pr missed s) :=
  chartWork_offerOrOwe (overdueOffer n pr s.calendar.closingDay missed) s

theorem chartWork_missStep (n : Nat) (pr : Process) (s : State) :
    ChartWork ((s.chart n pr).enrolled = true) s (missStep n pr s) := by
  have h := chartWork_countMiss n pr s
  unfold missStep
  generalize countMiss n pr s = out at h ⊢
  rcases out with ⟨_ | m, t⟩
  · exact h
  · exact h.trans_enrolled (chartWork_offerOverdue n pr m t) id

theorem chartWork_clearOwed (n : Nat) (pr : Process) (cls : NoticeClass) (s : State) :
    ChartWork ((s.chart n pr).enrolled = true) s (clearOwed n pr cls s) := chartWork_owed (fun c => c.owed.clear cls) s

/-- A rebuilt offer is of its chart (R137). -/
theorem rebuiltOffer_chart {n : Nat} {pr : Process} {d : Nat} {c : Chart} {cls : NoticeClass} {o : Offer}
    (h : rebuiltOffer n pr d c cls = some o) : o.store = n ∧ o.process = pr := by
  unfold rebuiltOffer at h
  split at h
  · split at h
    · split at h <;> cases h
      exact ⟨rfl, rfl⟩
    · cases h
  · split at h <;> cases h <;> exact ⟨rfl, rfl⟩
  · split at h <;> cases h
    exact ⟨rfl, rfl⟩

theorem chartWork_owedStep (n : Nat) (pr : Process) (cls : NoticeClass) (s : State) :
    ChartWork ((s.chart n pr).enrolled = true) s (owedStep n pr cls s) := by
  unfold owedStep
  dsimp only
  split
  · split
    · exact chartWork_clearOwed n pr cls s
    · next o ho =>
      have h := chartWork_takeOffer o s
      obtain ⟨hn, hp⟩ := rebuiltOffer_chart ho
      rw [hn, hp] at h
      generalize takeOffer o s = out at h ⊢
      rcases out with ⟨_ | _ | _, t⟩
      · exact h.trans_enrolled (chartWork_clearOwed n pr cls t) id
      · exact h.trans_enrolled (chartWork_clearOwed n pr cls t) id
      · exact h
  · exact .refl _ s

theorem chartWork_finishOwed (n : Nat) (pr : Process) (cls : NoticeClass) (s : State) :
    ChartWork ((s.chart n pr).enrolled = true) s (finishOwed n pr cls s) := by
  have step := chartWork_owedStep n pr
  cases cls with
  | condition => exact ((step .condition s).trans_enrolled (step .attendance _) id).trans_enrolled (step .held _) id
  | attendance => exact (step .attendance s).trans_enrolled (step .held _) id
  | held => exact step .held s

theorem chartWork_finishMiss (n : Nat) (pr : Process) (s : State) :
    ChartWork ((s.chart n pr).enrolled = true) s (finishMiss n pr s) :=
  (chartWork_missStep n pr s).trans_enrolled (chartWork_finishOwed n pr .condition _) id

/-- The rest of a visit after the start of its retry. -/
theorem chartWork_visitFrom {G : Prop} {n : Nat} {pr : Process} {s : State} {start : Option Evaluation × State}
    (h : ChartWork G s start.2) (hen : G → (s.chart n pr).enrolled = true)
    (hev : ∀ ev, start.1 = some ev → G → ValuesOk s → EvalReady start.2 (.computed ev)) :
    ChartWork G s (visitFrom n pr start) := by
  rcases start with ⟨_ | ev, t⟩
  · exact h.trans_enrolled (chartWork_finishMiss n pr t) hen
  · exact (h.trans (chartWork_runEval (.computed ev) t) fun g hs _ => hev ev rfl g hs).trans_enrolled
      (chartWork_finishMiss n pr _) hen

/-- The snapshots of a parked reading whose lot is active are in range (R50, R134). -/
theorem visitStageOk_snapped {n : Nat} {pr : Process} {s : State} {pk : Parked} {lot : LotRecord}
    (href : ReferenceOk s) (hs : ValuesOk s) (hpk : (s.chart n pr).parked = some pk)
    (hlot : findLot (s.table pr).lots pk.lot = some lot) :
    VisitStageOk s (.snapped (parkedReading n pr pk) lot (s.table pr).profile) := by
  have hparked := (hs.charts n pr).parked pk hpk
  obtain ⟨⟨-, -, hlots⟩, ⟨-, hweight, -⟩, -⟩ := href.1 pr
  exact ⟨⟨hparked.lot, hparked.notLate, hparked.codes⟩, hparked.notStale, (hlots lot (findLot_some hlot).1).2.1.2,
    hweight.2⟩

/-- A visit from the chart on asks only that lots and profiles be in range. -/
theorem chartWork_visitChart (n : Nat) (pr : Process) (s : State) :
    ChartWork (ReferenceOk s) s (visitChart n pr s) := by
  unfold visitChart
  dsimp only
  split
  · exact .refl _ s
  · next hstate =>
    have hen : (s.chart n pr).enrolled = true := (enrolled_iff _).2 fun h => hstate (.inl h)
    split
    · exact (chartWork_finishMiss n pr s).guard fun _ _ => hen
    · next pk hpk =>
      unfold retryStart
      split
      · exact (chartWork_finishMiss n pr s).guard fun _ _ => hen
      · next lot hlot =>
        exact chartWork_visitFrom ((chartWork_recheck (parkedReading n pr pk) lot _ s).guard fun _ _ => hen)
          (fun _ => hen) fun ev hev href hs => evalReady_recheck hev hen (visitStageOk_snapped href hs hpk hlot) hs

theorem VisitReady.retry {s : State} {n : Nat} {pr : Process} {st : EvalStage} (h : VisitReady s n pr (.retry st)) :
    EvalReady s st := by
  obtain ⟨hen, hst, hrd⟩ := h
  refine ⟨hst, fun rd hr => ?_⟩
  obtain ⟨hn, hp⟩ := hrd rd hr
  rw [hn, hp]
  exact hen (by rintro ⟨⟩)

theorem VisitReady.snapped {s : State} {n : Nat} {pr : Process} {rd : Reading} {lot : LotRecord} {profile : Profile}
    (h : VisitReady s n pr (.snapped rd lot profile)) : (s.chart rd.store rd.process).enrolled = true := by
  obtain ⟨hen, -, hrd⟩ := h
  obtain ⟨hn, hp⟩ := hrd rd rfl
  rw [hn, hp]
  exact hen (by rintro ⟨⟩)

theorem chartWork_finishVisit (n : Nat) (pr : Process) (st : VisitStage) (s : State) :
    ChartWork (ReferenceOk s ∧ VisitReady s n pr st) s (finishVisit n pr st s) := by
  have hen : st ≠ .arrive → ReferenceOk s ∧ VisitReady s n pr st → (s.chart n pr).enrolled = true :=
    fun hne g => g.2.1 hne
  cases st with
  | arrive => exact (chartWork_visitChart n pr s).guard fun g _ => g.1
  | snapped rd lot profile =>
    exact chartWork_visitFrom ((chartWork_recheck rd lot profile s).guard fun g _ => g.2.snapped)
      (hen (by rintro ⟨⟩)) fun ev hev g hs => evalReady_recheck hev g.2.snapped g.2.2.1 hs
  | retry st =>
    exact ((chartWork_runEval st s).guard fun g _ => g.2.retry).trans_enrolled (chartWork_finishMiss n pr _)
      (hen (by rintro ⟨⟩))
  | miss => exact (chartWork_finishMiss n pr s).guard fun g _ => hen (by rintro ⟨⟩) g
  | overdue missed =>
    exact ((chartWork_offerOverdue n pr missed s).guard fun g _ => hen (by rintro ⟨⟩) g).trans_enrolled
      (chartWork_finishOwed n pr .condition _) (hen (by rintro ⟨⟩))
  | owed cls => exact (chartWork_finishOwed n pr cls s).guard fun g _ => hen (by rintro ⟨⟩) g

theorem chartWork_visitCharts (first count : Nat) (s : State) :
    ChartWork (ReferenceOk s) s (visitCharts first count s) := by
  unfold visitCharts
  generalize List.range' first count = l
  induction l generalizing s with
  | nil => exact .refl _ s
  | cons i rest ih =>
    exact (chartWork_visitChart (sliceStore s i) (sliceProcess i) s).trans (ih _) fun href _ _ =>
      href.of_lots (work_visitChart _ _ s).lots

/-! ## The parts of a visit (R133) -/

theorem chartWork_visitPart (n : Nat) (pr : Process) (st : VisitStage) (s : State) :
    ChartWork (VisitReady s n pr st) s (visitPart n pr st s).2 := by
  cases st with
  | arrive =>
    unfold visitPart
    dsimp only
    split
    · exact .refl _ s
    · split
      · exact .refl _ s
      · split <;> exact .refl _ s
  | snapped rd lot profile =>
    have h := (chartWork_recheck rd lot profile s).guard (G := VisitReady s n pr (.snapped rd lot profile))
      fun g _ => g.snapped
    unfold visitPart
    dsimp only
    generalize recheck rd lot profile s = out at h ⊢
    rcases out with ⟨_ | ev, t⟩ <;> exact h
  | retry st =>
    have h : ChartWork (VisitReady s n pr (.retry st)) s (retryPart st s).2 :=
      (retryPart_eq st s).1 ▸ (chartWork_evalPart st s).guard fun g _ => g.retry
    unfold visitPart
    dsimp only
    generalize retryPart st s = out at h ⊢
    rcases out with ⟨_ | st', t⟩ <;> exact h
  | miss =>
    have h := (chartWork_countMiss n pr s).guard (G := VisitReady s n pr .miss) fun g _ => g.1 (by rintro ⟨⟩)
    unfold visitPart
    dsimp only
    generalize countMiss n pr s = out at h ⊢
    rcases out with ⟨_ | m, t⟩ <;> exact h
  | overdue missed => exact (chartWork_offerOverdue n pr missed s).guard fun g _ => g.1 (by rintro ⟨⟩)
  | owed cls => cases cls <;> exact (chartWork_owedStep n pr _ s).guard fun g _ => g.1 (by rintro ⟨⟩)

/-- A stage without a reading asks of its chart only that it is not OFF. -/
theorem visitReady_of_enrolled {s : State} {n : Nat} {pr : Process} {st : VisitStage}
    (hen : (s.chart n pr).enrolled = true) (hst : VisitStageOk s st) (hr : st.reading? = none) :
    VisitReady s n pr st :=
  ⟨fun _ => hen, hst, fun rd h => by rw [hr] at h; cases h⟩

/-- A visit goes on at a stage in range: at its chart, or with the reading parked there (R133, R134). -/
theorem visitReady_visitPart {n : Nat} {pr : Process} {st st' : VisitStage} {s : State} (href : ReferenceOk s)
    (hs : ValuesOk s) (h : VisitReady s n pr st) (hst : (visitPart n pr st s).1 = some st') :
    VisitReady (visitPart n pr st s).2 n pr st' := by
  have hkept := (chartWork_visitPart n pr st s).enrolled hs.stores n pr
  have hon : st ≠ .arrive → ((visitPart n pr st s).2.chart n pr).enrolled = true := fun hne => hkept.trans (h.1 hne)
  cases st with
  | arrive =>
    unfold visitPart at hst ⊢
    dsimp only at hst ⊢
    split at hst
    · cases hst
    · next hstate =>
      have hen : (s.chart n pr).enrolled = true := (enrolled_iff _).2 fun hoff => hstate (.inl hoff)
      rw [if_neg hstate]
      split at hst
      · next hpk =>
        cases hst
        exact visitReady_of_enrolled hen trivial rfl
      · next pk hpk =>
        split at hst
        · next hlot =>
          cases hst
          exact visitReady_of_enrolled hen trivial rfl
        · next lot hlot =>
          cases hst
          refine ⟨fun _ => hen, visitStageOk_snapped href hs hpk hlot, ?_⟩
          rintro _ ⟨⟩
          exact ⟨rfl, rfl⟩
  | snapped rd lot profile =>
    have hon' := hon (by rintro ⟨⟩)
    have hev : ∀ ev, (recheck rd lot profile s).1 = some ev →
        EvalReady (recheck rd lot profile s).2 (.computed ev) ∧ ev.reading = rd := fun ev he =>
      ⟨evalReady_recheck he h.snapped h.2.1 hs, reading_recheck he⟩
    unfold visitPart at hst hon' ⊢
    dsimp only at hst hon' ⊢
    generalize recheck rd lot profile s = out at hst hon' hev ⊢
    rcases out with ⟨_ | ev, t⟩
    · cases hst
      exact visitReady_of_enrolled hon' trivial rfl
    · cases hst
      obtain ⟨hready, hreading⟩ := hev ev rfl
      refine ⟨fun _ => hon', hready.1, ?_⟩
      rintro _ ⟨⟩
      rw [hreading]
      exact h.2.2 rd rfl
  | retry st =>
    have hon' := hon (by rintro ⟨⟩)
    have hstage := evalStageOk_evalPart h.retry hs
    have hreading := reading_evalPart st s
    obtain ⟨hstate, hnext⟩ := retryPart_eq st s
    rw [← hstate] at hstage
    unfold visitPart at hst hon' ⊢
    dsimp only at hst hon' ⊢
    generalize retryPart st s = out at hst hon' hstage hnext ⊢
    rcases out with ⟨_ | st'', t⟩
    · cases hst
      exact visitReady_of_enrolled hon' trivial rfl
    · cases hst
      rw [hnext st'' rfl] at hstage hreading
      refine ⟨fun _ => hon', hstage, fun rd hr => ?_⟩
      rcases hreading with hsame | hnone
      · exact h.2.2 rd (hsame.symm.trans hr)
      · cases hnone.symm.trans hr
  | miss =>
    have hon' := hon (by rintro ⟨⟩)
    unfold visitPart at hst hon' ⊢
    dsimp only at hst hon' ⊢
    generalize countMiss n pr s = out at hst hon' ⊢
    rcases out with ⟨_ | m, t⟩ <;> cases hst <;> exact visitReady_of_enrolled hon' trivial rfl
  | overdue missed =>
    cases hst
    exact visitReady_of_enrolled (hon (by rintro ⟨⟩)) trivial rfl
  | owed cls => cases cls <;> cases hst <;> exact visitReady_of_enrolled (hon (by rintro ⟨⟩)) trivial rfl

end Sys2Proof.Machine

namespace Sys2Proof.Machine

/-! ## Steps of the engine -/

namespace Sound
variable {s : State}

theorem evalReady (h : Sound s) {c : Caller} {st : EvalStage} (he : s.engine = some (.evaluating c st)) :
    EvalReady s st := ⟨(engineValuesOk_evaluating he).1 h.engine, (engineChartOk_evaluating he).1 h.engineChart⟩

theorem visitReady (h : Sound s) {i : Nat} {st : VisitStage} (he : s.engine = some (.slice i st)) :
    VisitReady s (sliceStore s i) (sliceProcess i) st := (engineValuesOk_slice he).1 h.engine

end Sound

/-- An evaluation taken to a stage: what its chart and its values have to be. -/
theorem engineChartOk_set_evaluating {s : State} {c : Caller} {st : EvalStage} (h : ReadingEnrolled s st.reading?) :
    EngineChartOk { s with engine := some (.evaluating c st) } := h

theorem engineValuesOk_set_evaluating {s : State} {c : Caller} {st : EvalStage} (h : EvalStageOk s st) :
    EngineValuesOk { s with engine := some (.evaluating c st) } :=
  (engineValuesOk_evaluating (c := c) (st := st) rfl).2 (.mono (fun _ _ => rfl) (Nat.le_refl _) h)

/-- A slice taken to a stage. -/
theorem engineChartOk_set_slice {s : State} {i : Nat} {st : VisitStage} (h : ReadingEnrolled s st.reading?) :
    EngineChartOk { s with engine := some (.slice i st) } := h

theorem engineValuesOk_set_slice {s : State} {i : Nat} {st : VisitStage}
    (h : VisitReady s (sliceStore s i) (sliceProcess i) st) :
    EngineValuesOk { s with engine := some (.slice i st) } :=
  (engineValuesOk_slice (i := i) (st := st) rfl).2 ⟨h.1, .mono (fun _ _ => rfl) (Nat.le_refl _) h.2.1, h.2.2⟩

namespace StepKeeps
variable {G : Prop} {s s' : State}

/-- Work of the engine, and the engine free. -/
theorem freed (hw : ChartWork G s s') (hg : Sound s → G) (h0 : enrolmentInFlight s.engine = 0) :
    StepKeeps s { s' with engine := none } where
  calendar hs := hs.of_calendar hw.calendar fun h => by cases h
  stores := hw.stores
  enrolment := fun ⟨hstores, _, hcount⟩ => by
    refine ⟨hw.stores hstores, trivial, ?_⟩
    show s'.calendar.enrolment = enrolledCharts s'.stores + 0
    rw [hw.calendar, hcount, h0, enrolledCharts_congr hstores (hw.stores hstores) (hw.enrolled hstores)]
  charts hs := by
    have hv := hw.values (hg hs) hs.values
    exact ⟨hv.charts, hv.notices, hv.patterns, engineValuesOk_of_atGrant .free⟩

/-- Work of the engine that comes to the end of its operation with a reply. -/
theorem finished (c : Caller) (rep : Reply) (hw : ChartWork G s s') (hg : Sound s → G)
    (h0 : enrolmentInFlight s.engine = 0) : StepKeeps s (finishOperation c rep s') :=
  (freed hw hg h0).then_quiet (quiet_finishOperation c rep s')

/-- A reply on the state as it is. -/
theorem replied (c : Caller) (rep : Reply) (h0 : enrolmentInFlight s.engine = 0) :
    StepKeeps s (finishOperation c rep s) := finished c rep (.refl True s) (fun _ => trivial) h0

/-- Work of the engine that leaves the operation at a stage. -/
theorem staged {op : Operation} (hw : ChartWork G s s') (hg : Sound s → G)
    (h0 : enrolmentInFlight (some op) = enrolmentInFlight s.engine)
    (hslice : ∀ i st, op = .slice i st → sliceInFlight s = true)
    (hop : EngineChartOk s → (∀ n pr, (s'.chart n pr).enrolled = (s.chart n pr).enrolled) →
      EngineChartOk { s' with engine := some op })
    (hv : Sound s → ValuesOk s' → EngineValuesOk { s' with engine := some op }) :
    StepKeeps s { s' with engine := some op } where
  calendar hs := hs.of_calendar hw.calendar fun h => by
    obtain ⟨i, st, hst⟩ := (sliceInFlight_iff _).1 h
    exact hs.sweeping (hslice i st (Option.some.inj hst))
  stores := hw.stores
  enrolment := fun ⟨hstores, hchart, hcount⟩ => by
    refine ⟨hw.stores hstores, hop hchart (hw.enrolled hstores), ?_⟩
    show s'.calendar.enrolment = enrolledCharts s'.stores + enrolmentInFlight (some op)
    rw [hw.calendar, hcount, h0, enrolledCharts_congr hstores (hw.stores hstores) (hw.enrolled hstores)]
  charts hs := by
    have hvals := hw.values (hg hs) hs.values
    exact ⟨hvals.charts, hvals.notices, hvals.patterns, hv hs hvals⟩

end StepKeeps

theorem stepKeeps_withGranted {code : RequestCode} {f : Caller → State → State} {s : State}
    (h : ∀ c, enrolmentInFlight s.engine = 0 → StepKeeps s (f c s)) : StepKeeps s (withGranted code f s) := by
  unfold withGranted
  split
  · next he =>
    split
    · exact h _ (by rw [he]; rfl)
    · exact .refl s
  · exact .refl s

/-! ## Readings -/

/-- What a carried reading holds is of sixteen bits (R174). -/
theorem portChecks_bounds {c : Caller} {s : State} {rd : Reading} (h : portChecks c s = .ok rd) :
    rd.lot ≤ Config.max16 ∧ ∀ k ∈ rd.codes.list, k ≤ Config.max16 := by
  unfold portChecks at h
  dsimp only at h
  split at h
  · cases h
  · split at h
    · split at h
      · cases h
      · split at h
        · cases h
        · cases h
          refine ⟨u16_le _ _ _, forall_mem_itemList fun p ch => ?_⟩
          rw [items16, PerItem.item_tab]
          exact u16_le _ _ _
    · cases h

theorem isStale_eq_false_iff (last : Option Nat) (day : Nat) :
    isStale last day = false ↔ ∀ l, last = some l → l ≤ day := by
  cases last <;> simp [isStale]

/-- A reading past the calendar's checks is neither of a later day nor stale, and names a lot (R67, R68). -/
theorem dayRefusal_eq_none {rd : Reading} {day window : Nat} {s : State} (h : dayRefusal rd day window s = none) :
    rd.day ≤ day ∧ NotStale s rd ∧ 1 ≤ rd.lot := by
  unfold dayRefusal at h
  dsimp only at h
  split at h
  · cases h
  · next hday =>
    split at h
    · cases h
    · split at h
      · cases h
      · next hstale =>
        split at h
        · cases h
        · next hlot =>
          exact ⟨Nat.le_of_not_lt hday, (isStale_eq_false_iff _ _).1 (Bool.eq_false_of_not_eq_true hstale),
            Nat.one_le_iff_ne_zero.2 hlot⟩

theorem chartWork_dayRefusal {rd : Reading} {day window : Nat} {s : State} {out : Reply × State}
    (h : dayRefusal rd day window s = some out) :
    ChartWork ((s.chart rd.store rd.process).enrolled = true) s out.2 := by
  unfold dayRefusal at h
  dsimp only at h
  split at h
  · cases h
    exact .refl _ s
  · split at h
    · cases h
      exact .refl _ s
    · split at h
      · cases h
        dsimp only
        exact .modChart (fun _ => rfl) fun hen hs => (hs.charts _ _).staleRead ((enrolled_iff _).1 hen)
      · split at h
        · cases h
          exact .refl _ s
        · cases h

theorem stepKeeps_acceptLot (c : Caller) {rd : Reading} {window : Nat} {s : State}
    (h0 : enrolmentInFlight s.engine = 0) (hpark : ParkReady s rd) :
    StepKeeps s (acceptLot c rd s.calendar.day window s) := by
  unfold acceptLot
  split
  · exact .finished c _ (chartWork_park rd s) (fun _ => hpark) h0
  · next lot hlot =>
    have hstage : Sound s → EvalStageOk s
        (.computed (evaluate rd s.calendar.day window lot (s.table rd.process).profile s)) := fun hs => by
      obtain ⟨⟨-, -, hlots⟩, ⟨-, hweight, -⟩, -⟩ := hs.reference.1 rd.process
      exact ⟨compute_ok (hs.values.charts _ _).pvs hweight.2 hpark.2.1 (hlots lot (findLot_some hlot).1).2.1.2,
        hpark.2.2⟩
    refine .staged (.refl True s) (fun _ => trivial) h0.symm (fun _ _ h => by cases h)
      (fun _ _ => engineChartOk_set_evaluating ?_) fun hs _ => engineValuesOk_set_evaluating (hstage hs)
    rintro _ ⟨⟩
    exact hpark.1

theorem stepKeeps_acceptReading (c : Caller) {s : State} (h0 : enrolmentInFlight s.engine = 0) :
    StepKeeps s (acceptReading c s) := by
  unfold acceptReading
  split
  · exact .replied c _ h0
  · next rd hok =>
    have hen := portChecks_eq_ok hok
    unfold acceptDay
    split
    · next hout => exact .finished c _ (chartWork_dayRefusal hout) (fun _ => hen) h0
    · next hnone =>
      obtain ⟨hlot, hcodes⟩ := portChecks_bounds hok
      obtain ⟨hday, hstale, hlot'⟩ := dayRefusal_eq_none hnone
      exact stepKeeps_acceptLot c h0 ⟨hen, ⟨⟨hlot', hlot⟩, hday, hcodes⟩, hstale⟩

theorem stepKeeps_classifyStage (s : State) : StepKeeps s (classifyStage s) := by
  unfold classifyStage
  split
  · next c ev he =>
    refine .staged (.refl True s) (fun _ => trivial) (by rw [he]; rfl) (fun _ _ h => by cases h)
      (fun hs _ => engineChartOk_set_evaluating (st := .classified ev _) ((engineChartOk_evaluating he).1 hs))
      fun hs hv => ?_
    exact engineValuesOk_set_evaluating (evalReady_classify (hs.evalReady he) hv).1
  · exact .refl s

theorem stepKeeps_commitStage (s : State) : StepKeeps s (commitStage s) := by
  unfold commitStage
  split
  · exact .refl s
  · next he => exact .finished _ _ (chartWork_runEval _ s) (fun hs => hs.evalReady he) (by rw [he]; rfl)
  · exact .refl s

theorem stepKeeps_commitPart (s : State) : StepKeeps s (commitPart s) := by
  unfold commitPart
  split
  · exact .refl s
  · next he => exact .replied _ _ (by rw [he]; rfl)
  · next c st _ _ he =>
    refine .staged (chartWork_evalPart st s) (fun hs => hs.evalReady he) (by rw [he]; rfl) (fun _ _ h => by cases h)
      (fun hs hkept => engineChartOk_set_evaluating
        (readingEnrolled_evalPart (((engineChartOk_evaluating he).1 hs).congr hkept))) fun hs _ => ?_
    exact engineValuesOk_set_evaluating (evalStageOk_evalPart (hs.evalReady he) hs.values)
  · exact .refl s

/-! ## The sweep -/

theorem calendar_advanceSweep (s : State) : (advanceSweep s).calendar =
    if s.calendar.nextStore + 8 < 1024 then { s.calendar with nextStore := s.calendar.nextStore + 8 }
    else { s.calendar with sweep := .idle, nextStore := 0 } := by
  unfold advanceSweep
  dsimp only
  split
  · next h => exact (if_pos h).symm
  · next h => exact (if_neg h).symm

/-- The next store advances by eight in the sweep, or the sweep ends (R132, R139). -/
theorem calendarOk_advanceSweep {s : State} (h : CalendarOk s) (hs : s.calendar.sweep = .sweeping)
    (hfree : s.engine = none) : CalendarOk (advanceSweep s) := by
  have hslice : ¬ sliceInFlight (advanceSweep s) = true := fun hh => by
    obtain ⟨i, st, he⟩ := (sliceInFlight_iff _).1 hh
    rw [engine_advanceSweep, hfree] at he
    cases he
  unfold CalendarOk at h ⊢
  obtain ⟨hday, hclosing, hwindow, ⟨height, -⟩, -, hsweep, -⟩ := h
  rw [calendar_advanceSweep]
  split
  · next hlt =>
    refine ⟨hday, hclosing, hwindow, ⟨?_, hlt⟩, fun hidle => ?_, hsweep, fun hh => absurd hh hslice⟩
    · show (s.calendar.nextStore + 8) % 8 = 0
      rw [Nat.add_mod_right]
      exact height
    · rw [hs] at hidle
      cases hidle
  · exact ⟨hday, hclosing, hwindow, ⟨rfl, (by decide : 0 < 1024)⟩, fun _ => rfl, fun hh => SweepState.noConfusion hh,
      fun hh => absurd hh hslice⟩

theorem day_advanceSweep (s : State) : (advanceSweep s).calendar.day = s.calendar.day := by
  rw [calendar_advanceSweep]
  split <;> rfl

theorem enrolment_advanceSweep (s : State) : (advanceSweep s).calendar.enrolment = s.calendar.enrolment := by
  rw [calendar_advanceSweep]
  split <;> rfl

theorem notices_advanceSweep (s : State) : (advanceSweep s).notices = s.notices := by
  unfold advanceSweep
  dsimp only
  split <;> rfl

theorem patterns_advanceSweep (s : State) : (advanceSweep s).patterns = s.patterns := by
  unfold advanceSweep
  dsimp only
  split <;> rfl

theorem enrolmentOk_advanceSweep {s : State} (h : EnrolmentOk s) : EnrolmentOk (advanceSweep s) := by
  obtain ⟨hstores, hchart, hcount⟩ := h
  have hk := recordsKept_advanceSweep s
  refine ⟨storesOk_of_stores hk.stores hstores, hchart.of_records hk, ?_⟩
  rw [enrolment_advanceSweep, hk.stores, engine_advanceSweep, hcount]

theorem chartsOk_advanceSweep {s : State} (h : ChartsOk s) (hfree : s.engine = none) : ChartsOk (advanceSweep s) := by
  refine h.of_stores (recordsKept_advanceSweep s).stores (day_advanceSweep s) (notices_advanceSweep s)
    (patterns_advanceSweep s) (engineValuesOk_of_atGrant ?_)
  rw [engine_advanceSweep, hfree]
  exact .free

/-- Work of the engine that comes to the end of its slice (R148). -/
theorem StepKeeps.sliceEnded {G : Prop} {s s' : State} {i : Nat} {st : VisitStage} (hw : ChartWork G s s')
    (hg : Sound s → G) (he : s.engine = some (.slice i st)) : StepKeeps s (endSlice s') := by
  have hfreed : StepKeeps s { s' with engine := none, arbiter := ⟨.port .a, none, 0⟩ } :=
    (StepKeeps.freed hw hg (by rw [he]; rfl)).then_quiet (.arbiter _ _)
  have hsweep : CalendarOk s → s'.calendar.sweep = .sweeping := fun hs =>
    hw.calendar ▸ hs.sweeping ((sliceInFlight_iff s).2 ⟨i, st, he⟩)
  exact StepKeeps.then_quiet
    ⟨fun hs => calendarOk_advanceSweep (hfreed.calendar hs) (hsweep hs) rfl,
      fun hs => storesOk_of_stores (recordsKept_advanceSweep _).stores (hfreed.stores hs),
      fun hs => enrolmentOk_advanceSweep (hfreed.enrolment hs), fun hs => chartsOk_advanceSweep (hfreed.charts hs) rfl⟩
    (quiet_arbitrate _)

theorem stepKeeps_sliceStage (s : State) : StepKeeps s (sliceStage s) := by
  unfold sliceStage
  split
  · next i st he =>
    split
    · have hvisit := chartWork_finishVisit (sliceStore s i) (sliceProcess i) st s
      exact .sliceEnded
        (hvisit.trans (chartWork_visitCharts _ _ _) fun g _ _ => g.1.of_lots (work_finishVisit _ _ st s).lots)
        (fun hs => ⟨hs.reference, hs.visitReady he⟩) he
    · exact .sliceEnded (.refl True s) (fun _ => trivial) he
  · exact .refl s

theorem stepKeeps_slicePart (s : State) : StepKeeps s (slicePart s) := by
  unfold slicePart
  split
  · next i st he =>
    split
    · have hw := chartWork_visitPart (sliceStore s i) (sliceProcess i) st s
      have hreading := fun st' (h : ReadingEnrolled s st.reading?) =>
        readingEnrolled_visitPart (st' := st') (n := sliceStore s i) (pr := sliceProcess i) h
      have hready := fun st' (hs : Sound s) =>
        visitReady_visitPart (st' := st') hs.reference hs.values (hs.visitReady he)
      generalize visitPart (sliceStore s i) (sliceProcess i) st s = out at hw hreading hready ⊢
      have hstore : sliceStore out.2 i = sliceStore s i := congrArg (·.nextStore + i / 2) hw.calendar
      rcases out with ⟨_ | st', t⟩
      · exact .staged hw (fun hs => hs.visitReady he) (by rw [he]; rfl)
          (fun _ _ _ => (sliceInFlight_iff s).2 ⟨i, st, he⟩)
          (fun _ _ => engineChartOk_set_slice (readingEnrolled_none _))
          fun _ _ => engineValuesOk_set_slice (visitReady_arrive t _ _)
      · exact .staged hw (fun hs => hs.visitReady he) (by rw [he]; rfl)
          (fun _ _ _ => (sliceInFlight_iff s).2 ⟨i, st, he⟩)
          (fun hs hkept => engineChartOk_set_slice ((hreading st' ((engineChartOk_slice he).1 hs) rfl).congr hkept))
          fun hs _ => engineValuesOk_set_slice (hstore ▸ hready st' hs rfl)
    · exact .sliceEnded (.refl True s) (fun _ => trivial) he
  · exact .refl s

end Sys2Proof.Machine

namespace Sys2Proof.Machine

/-! ## Chart edits (section 3.5) -/

theorem stepKeeps_onChart {c : Caller} {f : Nat → Process → State → State} {s : State}
    (h0 : enrolmentInFlight s.engine = 0) (h : ∀ n pr, n < Config.stores → StepKeeps s (f n pr s)) :
    StepKeeps s (onChart c f s) := by
  unfold onChart
  split
  · next hn => exact h _ _ (namedChart_store_lt hn)
  · exact .replied c _ h0

theorem stepKeeps_suspendTake (c : Caller) (n : Nat) (pr : Process) {s : State}
    (h0 : enrolmentInFlight s.engine = 0) : StepKeeps s (suspendTake c n pr s) := by
  have hwork : (s.chart n pr).state ≠ .off → ChartWork True s (s.modChart n pr suspendedChart) := fun hon =>
    .setChart ((enrolled_iff _).2 hon).symm fun _ hs => (hs.charts n pr).suspend
  unfold suspendTake
  split
  · exact .replied c _ h0
  · next h => exact .finished c _ (hwork (by rw [h]; decide)) (fun _ => trivial) h0
  · next h => exact .finished c _ (hwork (by rw [h]; decide)) (fun _ => trivial) h0
  · exact .replied c _ h0

theorem stepKeeps_resumeWith (c : Caller) (restart : Bool) (n : Nat) (pr : Process) {s : State}
    (h0 : enrolmentInFlight s.engine = 0) : StepKeeps s (resumeWith c restart n pr s) := by
  unfold resumeWith
  split
  · exact .replied c _ h0
  · next h =>
    have hen : (resumedChart restart (s.chart n pr)).enrolled = (s.chart n pr).enrolled := by
      rw [(enrolled_iff (s.chart n pr)).2 (by rw [h]; decide)]
      cases restart <;> rfl
    exact .finished c _ (.setChart (G := True) hen fun _ hs => (hs.charts n pr).resume restart) (fun _ => trivial) h0
  · exact .replied c _ h0
  · exact .replied c _ h0

theorem stepKeeps_resumeTake (c : Caller) (n : Nat) (pr : Process) {s : State}
    (h0 : enrolmentInFlight s.engine = 0) : StepKeeps s (resumeTake c n pr s) := by
  unfold resumeTake
  split
  · exact stepKeeps_resumeWith c false n pr h0
  · exact stepKeeps_resumeWith c true n pr h0
  · exact .replied c _ h0

theorem stepKeeps_changeEnrolled (c : Caller) {f : Chart → Chart} (he : ∀ x, (f x).enrolled = x.enrolled)
    (hf : ∀ d x, ChartOk d x → x.state ≠ .off → ChartOk d (f x)) (n : Nat) (pr : Process) {s : State}
    (h0 : enrolmentInFlight s.engine = 0) : StepKeeps s (changeEnrolled c f n pr s) := by
  unfold changeEnrolled
  split
  · exact .replied c _ h0
  · next hon =>
    exact .finished c _ (.modChart (G := True) he fun _ hs => hf _ _ (hs.charts n pr) hon) (fun _ => trivial) h0

/-- The instrument settings are no part of a chart (R49). -/
theorem chartWork_setInstrument (s : State) (n : Nat) (ins : Instrument) :
    ChartWork True s (s.setEntry n { s.entry n with instrument := ins }) := by
  have hchart : StoresOk s → ∀ m qr,
      (s.setEntry n { s.entry n with instrument := ins }).chart m qr = s.chart m qr := by
    intro hs m qr
    unfold State.chart
    rw [entry_setEntry hs]
    split
    · next hm =>
      rw [hm.1]
      cases qr <;> rfl
    · rfl
  refine ⟨rfl, storesOk_setEntry n _, fun hs m qr => by rw [hchart hs], fun _ hs =>
    ⟨storesOk_setEntry n _ hs.stores, hs.day, fun m qr => ?_, fun e he => ?_, hs.patterns⟩⟩
  · rw [hchart hs.stores]
    exact hs.charts m qr
  · rw [hchart hs.stores]
    exact hs.notices e he

theorem stepKeeps_instrumentTake (c : Caller) {s : State} (h0 : enrolmentInFlight s.engine = 0) :
    StepKeeps s (instrumentTake c s) := by
  unfold instrumentTake
  dsimp only
  split
  · split
    · exact .finished c _ (chartWork_setInstrument s _ _) (fun _ => trivial) h0
    · exact .replied c _ h0
  · exact .replied c _ h0

/-! ## Enrolments, withdrawals and restores (R53 to R55, R61, R62) -/

/-- A grant that adds one to the enrolment count, for the operation that is to make a chart of it (R53). -/
theorem stepKeeps_grant {s : State} {op : Operation} (h0 : enrolmentInFlight s.engine = 0)
    (h1 : enrolmentInFlight (some op) = 1) (hslice : ∀ i st, op ≠ .slice i st)
    (hop : EngineChartOk { s.modEnrolment (· + 1) with engine := some op })
    (hv : Sound s → EngineValuesOk { s.modEnrolment (· + 1) with engine := some op }) :
    StepKeeps s { s.modEnrolment (· + 1) with engine := some op } where
  calendar hs := by
    have hnone : ¬ sliceInFlight { s.modEnrolment (· + 1) with engine := some op } = true := fun h => by
      obtain ⟨i, st, hst⟩ := (sliceInFlight_iff _).1 h
      exact hslice i st (Option.some.inj hst)
    obtain ⟨hday, hclosing, hwindow, hnext, hidle, hsweep, -⟩ := hs
    exact ⟨hday, hclosing, hwindow, hnext, hidle, hsweep, fun h => absurd h hnone⟩
  stores := id
  enrolment := fun ⟨hstores, _, hcount⟩ => by
    refine ⟨hstores, hop, ?_⟩
    show s.calendar.enrolment + 1 = enrolledCharts s.stores + enrolmentInFlight (some op)
    rw [hcount, h0, h1]
  charts hs := hs.charts.of_stores rfl rfl rfl rfl (hv hs)

theorem stepKeeps_enrolGrant (c : Caller) {n : Nat} (hn : n < Config.stores) (pr : Process) {s : State}
    (h0 : enrolmentInFlight s.engine = 0) : StepKeeps s (enrolGrant c n pr s) := by
  unfold enrolGrant
  split
  · next hoff =>
    refine stepKeeps_grant h0 rfl (fun _ _ h => by cases h) ((engineChartOk_enrolling rfl).2 ?_) fun _ =>
      (engineValuesOk_enrolling rfl).2 ?_
    · exact ⟨hn, (enrolled_eq_false_iff _).2 hoff⟩
    · exact u16_le _ _ _
  · exact .replied c _ h0

/-- The end of an operation that leaves the count for the charts alone (R53). -/
theorem stepKeeps_uncounted {s s' : State} (c : Caller) (rep : Reply)
    (hcal : s'.calendar = { s.calendar with enrolment := s'.calendar.enrolment })
    (hstores : StoresOk s → StoresOk s')
    (hcount : EnrolmentOk s → s'.calendar.enrolment = enrolledCharts s'.stores)
    (hv : Sound s → ValuesOk s') : StepKeeps s (finishOperation c rep s') := by
  refine StepKeeps.then_quiet (t := { s' with engine := none })
    ⟨fun hs => ?_, hstores, fun hs => ⟨hstores hs.1, trivial, hcount hs⟩, fun hs =>
      ⟨(hv hs).charts, (hv hs).notices, (hv hs).patterns, engineValuesOk_of_atGrant .free⟩⟩
    (quiet_finishOperation c rep s')
  obtain ⟨hday, hclosing, hwindow, hnext, hidle, hsweep, -⟩ := hs
  unfold CalendarOk
  dsimp only
  rw [hcal]
  exact ⟨hday, hclosing, hwindow, hnext, hidle, hsweep, fun h => by cases h⟩

/-- An enrolment or a restore whose lot is not active gives its count back (R53, R54, R62). -/
theorem stepKeeps_notJoined {s : State} (c : Caller) (rep : Reply) (h1 : enrolmentInFlight s.engine = 1) :
    StepKeeps s (finishOperation c rep (s.modEnrolment (· - 1))) :=
  stepKeeps_uncounted c rep rfl id
    (fun ⟨_, _, hcount⟩ => by
      show s.calendar.enrolment - 1 = enrolledCharts s.stores
      rw [hcount, h1]
      rfl)
    fun hs => hs.values.of_stores rfl (Nat.le_refl _) hs.values.day (fun _ he => he) hs.values.patterns

/-- A chart record in range is written, not OFF. -/
theorem ValuesOk.setChart {s : State} (h : ValuesOk s) (n : Nat) (pr : Process) {c : Chart}
    (hc : ChartOk s.calendar.day c) (hen : c.enrolled = true) : ValuesOk (s.setChart n pr c) where
  stores := storesOk_setChart n pr c h.stores
  day := h.day
  charts m qr := by
    rw [chart_setChart h.stores]
    split
    · exact hc
    · exact h.charts m qr
  notices e he := by
    rw [chart_setChart h.stores]
    split
    · exact hen
    · exact h.notices e he
  patterns := h.patterns

theorem chartWork_joinLot {G : Prop} {pr : Process} {n : Nat} {s t : State} (h : joinLot pr n s = some t) :
    ChartWork G s t := by
  unfold joinLot at h
  split at h
  · cases h
    exact .refl G s
  · split at h
    · cases h
      exact chartWork_setTable s pr _
    · cases h

/-- A chart that was OFF is written, and counted for the operation that wrote it (R53). -/
theorem stepKeeps_join {s s' : State} {n lot : Nat} {pr : Process} {ch : Chart} (c : Caller) (rep : Reply)
    (h1 : enrolmentInFlight s.engine = 1)
    (hgrant : EngineChartOk s → n < Config.stores ∧ (s.chart n pr).enrolled = false ∧ ch.enrolled = true)
    (hch : Sound s → ChartOk s.calendar.day ch) (hjoin : joinLot pr lot s = some s') :
    StepKeeps s (finishOperation c rep (s'.setChart n pr ch)) := by
  have hw := chartWork_joinLot (G := True) hjoin
  have hstores := (joinLot_eq_some hjoin).2.1
  refine stepKeeps_uncounted c rep ?_ (fun hs => storesOk_setChart n pr ch (hw.stores hs)) (fun hs => ?_) fun hs => ?_
  · rw [calendar_setChart, hw.calendar]
  · obtain ⟨hwf, hchart, hcount⟩ := hs
    obtain ⟨hn, hoff, hen⟩ := hgrant hchart
    have hmore := enrolledCharts_setChart (hw.stores hwf) hn pr ch
    rw [chart_of_stores hstores, hoff, hen, hstores] at hmore
    rw [calendar_setChart, hw.calendar, hcount, h1]
    exact hmore.symm
  · exact (hw.values trivial hs.values).setChart n pr (hw.calendar ▸ hch hs) (hgrant hs.engineChart).2.2

theorem stepKeeps_enrolCommit (s : State) : StepKeeps s (enrolCommit s) := by
  unfold enrolCommit
  split
  · next he =>
    split
    · next s' hjoin =>
      refine stepKeeps_join _ _ (by rw [he]; rfl) (fun hs => ?_) (fun hs => ?_) hjoin
      · obtain ⟨hn, hoff⟩ := (engineChartOk_enrolling he).1 hs
        exact ⟨hn, hoff, rfl⟩
      · obtain ⟨-, hoff⟩ := (engineChartOk_enrolling he).1 hs.engineChart
        rw [chart_of_stores (joinLot_eq_some hjoin).2.1,
          (hs.values.charts _ _).off ((enrolled_eq_false_iff _).1 hoff)]
        exact .enrol ((engineValuesOk_enrolling he).1 hs.engine)
    · exact stepKeeps_notJoined _ _ (by rw [he]; rfl)
  · exact .refl s

theorem stepKeeps_withdrawGrant (c : Caller) (n : Nat) (pr : Process) {s : State}
    (h0 : enrolmentInFlight s.engine = 0) : StepKeeps s (withdrawGrant c n pr s) := by
  unfold withdrawGrant
  split
  · exact .replied c _ h0
  · next hon =>
    exact .staged (.refl True s) (fun _ => trivial) h0.symm (fun _ _ h => by cases h)
      (fun _ _ => (engineChartOk_withdrawing rfl).2 ((enrolled_iff _).2 hon)) fun _ _ => trivial

/-- A withdrawal writes the OFF values and takes the chart's notices with it (R55, R126). -/
theorem valuesOk_withdrawn {s : State} (h : ValuesOk s) (n : Nat) (pr : Process)
    (hen : (s.chart n pr).enrolled = true) : ValuesOk ((unlisted n pr s).setChart n pr Chart.off) := by
  have hwf : StoresOk (unlisted n pr s) := storesOk_of_stores (stores_unlisted n pr s) h.stores
  have hchart : ∀ m qr, ((unlisted n pr s).setChart n pr Chart.off).chart m qr =
      if m = n ∧ qr = pr then Chart.off else s.chart m qr := fun m qr => by
    simp only [chart_setChart hwf, chart_of_stores (stores_unlisted n pr s), store_lt_of_enrolled h.stores hen,
      true_and]
  have hday : ((unlisted n pr s).setChart n pr Chart.off).calendar.day = s.calendar.day := by
    rw [calendar_setChart, calendar_unlisted]
  refine ⟨storesOk_setChart n pr _ hwf, hday ▸ h.day, fun m qr => ?_, fun e he => ?_, ?_⟩
  · rw [hchart, hday]
    split
    · exact chartOk_off _
    · exact h.charts m qr
  · rw [notices_setChart, notices_unlisted, removeNotices_eq] at he
    obtain ⟨hmem, hother⟩ := List.mem_filter.1 he
    rw [hchart, if_neg (of_decide_eq_true hother)]
    exact h.notices e hmem
  · rw [patterns_setChart, unlisted_frame]
    exact h.patterns

theorem stepKeeps_withdrawn {s : State} {c : Caller} {n : Nat} {pr : Process} (rep : Reply)
    (he : s.engine = some (.withdrawing c n pr)) :
    StepKeeps s (finishOperation c rep ((unlisted n pr s).setChart n pr Chart.off)) := by
  have hstores := stores_unlisted n pr s
  refine stepKeeps_uncounted c rep ?_ (fun hs => storesOk_setChart n pr _ (storesOk_of_stores hstores hs))
    (fun hs => ?_) fun hs => valuesOk_withdrawn hs.values n pr ((engineChartOk_withdrawing he).1 hs.engineChart)
  · rw [calendar_setChart, calendar_unlisted]
  · obtain ⟨hwf, hchart, hcount⟩ := hs
    have hen := (engineChartOk_withdrawing he).1 hchart
    have hless := enrolledCharts_setChart (storesOk_of_stores hstores hwf) (store_lt_of_enrolled hwf hen) pr Chart.off
    rw [chart_of_stores hstores, hen, hstores] at hless
    rw [calendar_setChart, calendar_unlisted, hcount, he]
    exact Nat.sub_eq_of_eq_add hless.symm

theorem stepKeeps_withdrawCommit (s : State) : StepKeeps s (withdrawCommit s) := by
  unfold withdrawCommit
  split
  · next c n pr he => exact stepKeeps_withdrawn _ he
  · exact .refl s

end Sys2Proof.Machine

namespace Sys2Proof.Machine

/-! ## The carried record in range (R39, R61) -/

theorem pairsValid_iff (l : List (Nat × Int)) : pairsValid l = true ↔ DeviationListOk l := by
  simp only [pairsValid, DeviationListOk, Bool.and_eq_true, decide_eq_true_eq, List.all_eq_true, inRange_iff]

theorem parkedValid_iff (last : Option Nat) (parked : Option Parked) : parkedValid last parked = true ↔
    ∀ pk, parked = some pk → pk.lot ≠ 0 ∧ ∀ l, last = some l → l ≤ pk.day := by
  cases parked <;> simp [parkedValid, isStale_eq_false_iff]

theorem pvOk_carriedPv {o : ByteOrder} {b : List Octet} {i : Nat} (h : pvValid o b i = true) :
    PvOk (carriedPv o b i) := by
  unfold pvValid at h
  simp only [Bool.and_eq_true, decide_eq_true_eq, inRange_iff] at h
  obtain ⟨⟨⟨hsign, hcount⟩, hewma⟩, hdeviation⟩ := h
  refine ⟨fun d hd => ?_, hewma, hcount, ?_⟩
  · unfold carriedPv at hd
    dsimp only at hd
    split at hd
    · next hmarked =>
      cases hd
      rw [hmarked] at hdeviation
      exact (inRange_iff _ _ _).1 hdeviation
    · cases hd
  · unfold carriedPv
    dsimp only
    cases hs : signOfOctet (u8 b (pvOffset i + 4)) with
    | none =>
      rw [hs] at hsign
      cases hsign
    | some sg =>
      rw [hs] at hsign
      show sg = .zero ↔ _
      rw [← beq_iff_eq, beq_iff_eq.1 hsign, beq_iff_eq]

theorem lastResultOk_carried {o : ByteOrder} {b : List Octet} (h : resultValid o b = true) :
    ∀ r, carriedResult o b = some r → LastResultOk r := by
  intro r hr
  obtain ⟨-, -, hpresent⟩ := (resultValid_iff o b).1 h
  unfold carriedResult at hr
  split at hr
  · next hmark =>
    cases hr
    obtain ⟨hcode, -, hpairs⟩ := hpresent hmark
    exact ⟨u16_le o b 125, hcode, (pairsValid_iff _).1 hpairs⟩
  · cases hr

theorem parked_carried_bounds {o : ByteOrder} {b : List Octet} {pk : Parked} (h : carriedParked o b = some pk) :
    pk.lot ≤ Config.max16 ∧ ∀ k ∈ pk.codes.list, k ≤ Config.max16 := by
  unfold carriedParked at h
  split at h
  · cases h
    refine ⟨u16_le o b 97, forall_mem_itemList fun p ch => ?_⟩
    rw [items16, PerItem.item_tab]
    exact u16_le _ _ _
  · cases h

/-- A carried record that passes the checks of R61 is in range. -/
theorem chartOk_carried {o : ByteOrder} {b : List Octet} {day : Nat} (hvalid : recordValid o b = true)
    (hday : calendarAdmits day (carriedChart o b) = true) : ChartOk day (carriedChart o b) := by
  have hon := (enrolled_iff _).1 (enrolled_carriedChart hvalid)
  rw [recordValid_eq] at hvalid
  simp only [Bool.and_eq_true, List.all_eq_true, List.mem_range] at hvalid
  obtain ⟨⟨⟨-, hpvs⟩, hresult⟩, hparked⟩ := hvalid
  unfold calendarAdmits at hday
  simp only [Bool.and_eq_true, decide_eq_true_eq, notAfter_iff, Option.map_eq_some_iff, forall_exists_index, and_imp,
    forall_apply_eq_imp_iff₂] at hday
  obtain ⟨⟨henrol, hlast⟩, hlate⟩ := hday
  exact {
    off := fun hoff => absurd hoff hon
    lot := u16_le o b 5
    revision := u8_le b 7
    enrolDay := henrol
    lastDay := hlast
    missed := u8_le b 12
    pvs := fun g x => by
      have hpv : (carriedChart o b).pvs.pv g x = carriedPv o b (pvNumber g x) := PerPv.pv_tab _ g x
      rw [hpv]
      exact pvOk_carriedPv (hpvs _ (Nat.lt_succ_of_le (pvNumber_le g x)))
    lastResult := lastResultOk_carried hresult
    parked := fun pk hpk => by
      obtain ⟨hlot, hstale⟩ := (parkedValid_iff _ _).1 hparked pk hpk
      obtain ⟨hlot', hcodes⟩ := parked_carried_bounds hpk
      exact ⟨⟨Nat.one_le_iff_ne_zero.2 hlot, hlot'⟩, hlate pk hpk, hstale, hcodes⟩
    evaluated := u16_le o b 91
    stale := u16_le o b 93
    expired := u16_le o b 95 }

theorem stepKeeps_restoreGrant (c : Caller) {n : Nat} (hn : n < Config.stores) (pr : Process) {s : State}
    (h0 : enrolmentInFlight s.engine = 0) : StepKeeps s (restoreGrant c n pr s) := by
  unfold restoreGrant
  dsimp only
  split
  · exact .replied c _ h0
  · next hvalid =>
    have hvalid' := Bool.eq_true_of_not_eq_false hvalid
    split
    · exact .replied c _ h0
    · next hoff =>
      split
      · next hday =>
        refine stepKeeps_grant h0 rfl (fun _ _ h => by cases h) ((engineChartOk_restoring rfl).2 ?_) fun _ =>
          (engineValuesOk_restoring rfl).2 (chartOk_carried hvalid' hday)
        exact ⟨hn, (enrolled_eq_false_iff _).2 (not_not.1 hoff), enrolled_carriedChart hvalid'⟩
      · exact .replied c _ h0

theorem stepKeeps_restoreCommit (s : State) : StepKeeps s (restoreCommit s) := by
  unfold restoreCommit
  split
  · next he =>
    split
    · next hjoin =>
      exact stepKeeps_join _ _ (by rw [he]; rfl) (engineChartOk_restoring he).1
        (fun hs => (engineValuesOk_restoring he).1 hs.engine) hjoin
    · exact stepKeeps_notJoined _ _ (by rw [he]; rfl)
  · exact .refl s

/-! ## Owner work on patterns, notices and the calendar -/

theorem stepKeeps_serveOwner {code : RequestCode} {p : Port} {s : State}
    {take : ByteOrder → List Octet → State → Reply × State} (h : ∀ o b, StepKeeps s (take o b s).2) :
    StepKeeps s (serveOwner code p take s) := by
  unfold serveOwner
  split
  · split
    · exact (h _ _).then_quiet (quiet_answered _ _ _ _)
    · exact .refl s
  · exact .refl s

theorem stepKeeps_patterns {s : State} {x : Vector PatternEntry 16}
    (h : (∀ i : Fin 16, s.patterns[i].code ≤ 59) → ∀ i : Fin 16, x[i].code ≤ 59) :
    StepKeeps s { s with patterns := x } where
  calendar := id
  stores := id
  enrolment := id
  charts hs := ⟨hs.values.charts, hs.values.notices, h hs.values.patterns,
    hs.engine.mono rfl (fun _ _ => rfl) (Nat.le_refl _) fun _ => rfl⟩

theorem stepKeeps_notices {s : State} {q : NoticeQueue} (h : ∀ e ∈ q.entries, e ∈ s.notices.entries) :
    StepKeeps s { s with notices := q } where
  calendar := id
  stores := id
  enrolment := id
  charts hs := ⟨hs.values.charts, fun e he => hs.values.notices e (h e he), hs.values.patterns,
    hs.engine.mono rfl (fun _ _ => rfl) (Nat.le_refl _) fun _ => rfl⟩

theorem stepKeeps_calendar {s : State} {cal : Calendar} (hok : CalendarOk s → CalendarOk { s with calendar := cal })
    (hcount : cal.enrolment = s.calendar.enrolment)
    (hv : Sound s → (∀ n pr, ChartOk cal.day (s.chart n pr)) ∧ EngineValuesOk { s with calendar := cal }) :
    StepKeeps s { s with calendar := cal } where
  calendar := hok
  stores := id
  enrolment hs := ⟨hs.1, hs.2.1, hcount.trans hs.2.2⟩
  charts hs := ⟨(hv hs).1, hs.values.notices, hs.values.patterns, (hv hs).2⟩

theorem stepKeeps_writePatternTake (o : ByteOrder) (b : List Octet) (s : State) :
    StepKeeps s (writePatternTake o b s).2 := by
  unfold writePatternTake
  split
  · split
    · exact .refl s
    · split
      · refine StepKeeps.then_quiet (stepKeeps_patterns fun h i => ?_) (.raiseAll _ _)
        simp only [Fin.getElem_fin, Vector.getElem_set]
        split
        · show clampNat 1 59 _ ≤ 59
          rw [clampNat_eq_max_min (by decide)]
          omega
        · exact h i
      · exact .refl s
  · exact .refl s

theorem stepKeeps_acknowledgeTake (o : ByteOrder) (b : List Octet) (s : State) :
    StepKeeps s (acknowledgeTake o b s).2 := by
  unfold acknowledgeTake
  dsimp only
  split
  · exact .refl s
  · split
    · exact .refl s
    · split
      · exact stepKeeps_notices fun e he => List.mem_of_mem_filter he
      · exact .refl s

theorem stepKeeps_setLateWindowTake (o : ByteOrder) (b : List Octet) (s : State) :
    StepKeeps s (setLateWindowTake o b s).2 := by
  refine stepKeeps_calendar (fun hs => ?_) rfl fun hs =>
    ⟨hs.values.charts, hs.engine.mono rfl (fun _ _ => rfl) (Nat.le_refl _) fun _ => rfl⟩
  obtain ⟨hday, hclosing, -, hrest⟩ := hs
  exact ⟨hday, hclosing, Nat.min_le_right _ _, hrest⟩

/-- The day advances while no sweep runs, and so while no slice is in flight (R131). -/
theorem stepKeeps_closedDay {s : State} (hidle : s.calendar.sweep ≠ .sweeping)
    (hlt : s.calendar.day < Config.max16) : StepKeeps s { s with calendar := closedDay s.calendar } := by
  refine stepKeeps_calendar (fun hs => ?_) rfl fun hs =>
    ⟨fun n pr => (hs.values.charts n pr).mono (Nat.le_succ _), hs.engine.mono rfl (fun _ _ => rfl) (Nat.le_succ _)
      fun hslice => absurd (hs.calendar.sweeping hslice) hidle⟩
  obtain ⟨hday, -, hwindow, -⟩ := hs
  exact ⟨hlt, hday, hwindow, ⟨rfl, (by decide : 0 < 1024)⟩, fun _ => rfl, fun _ => rfl, fun _ => rfl⟩

theorem stepKeeps_closeDayTake (o : ByteOrder) (b : List Octet) (s : State) :
    StepKeeps s (closeDayTake o b s).2 := by
  unfold closeDayTake
  split
  · exact .refl s
  · next hidle =>
    split
    · next hlt => exact (stepKeeps_closedDay hidle hlt).then_quiet (quiet_arbitrate _)
    · exact .refl s

/-- With no chart enrolled and no sweep running, what is in flight is to write no chart (R128). -/
theorem engineValuesOk_of_none_enrolled {s t : State} (h : Sound s) (h0 : s.calendar.enrolment = 0)
    (hidle : s.calendar.sweep ≠ .sweeping) (ht : t.engine = s.engine) : EngineValuesOk t := by
  obtain ⟨hwf, hchart, hcount⟩ := h.enrolment
  have hoff : ∀ n pr, ¬ (s.chart n pr).enrolled = true := fun n pr hon => by
    rw [off_of_enrolledCharts_eq_zero hwf (by omega)] at hon
    cases hon
  have hflight : enrolmentInFlight s.engine = 0 := by omega
  unfold EngineValuesOk
  rw [ht]
  cases he : s.engine with
  | none => trivial
  | some op =>
    rw [he] at hflight
    cases op with
    | granted c => trivial
    | withdrawing c n pr => trivial
    | enrolling c n pr lot => cases hflight
    | restoring c n pr ch => cases hflight
    | slice i st => exact absurd (h.calendar.sweeping ((sliceInFlight_iff s).2 ⟨i, st, he⟩)) hidle
    | evaluating c st =>
      have hnone : ∀ rd, st.reading? ≠ some rd := fun rd hrd => hoff _ _ ((engineChartOk_evaluating he).1 hchart rd hrd)
      cases st with
      | ending rep => trivial
      | computed ev => exact absurd rfl (hnone _)
      | classified ev res => exact absurd rfl (hnone _)
      | offering ev res l id owed => exact absurd rfl (hnone _)
      | parking rd => exact absurd rfl (hnone _)

theorem stepKeeps_setCalendarTake (o : ByteOrder) (b : List Octet) (s : State) :
    StepKeeps s (setCalendarTake o b s).2 := by
  unfold setCalendarTake
  split
  · exact .refl s
  · next h0 =>
    have h0' := not_not.1 h0
    split
    · exact .refl s
    · next hidle =>
      refine stepKeeps_calendar (fun hs => ?_) rfl fun hs =>
        ⟨fun n pr => ?_, engineValuesOk_of_none_enrolled hs h0' hidle rfl⟩
      · obtain ⟨-, hclosing, hwindow, hnext, hnext0, -, hslice⟩ := hs
        exact ⟨u16_le o b 0, hclosing, hwindow, hnext, hnext0, fun hsweep => absurd hsweep hidle, hslice⟩
      · obtain ⟨hwf, -, hcount⟩ := hs.enrolment
        have hoff := off_of_enrolledCharts_eq_zero hwf (by omega) n pr
        rw [(hs.values.charts n pr).off ((enrolled_eq_false_iff _).1 hoff)]
        exact chartOk_off _

/-! ## Resets -/

theorem stepKeeps_deviceReset (s : State) : StepKeeps s (deviceResetState s) where
  calendar _ := by
    show CalendarOk State.reset
    unfold CalendarOk
    decide
  stores _ := storesOk_reset
  enrolment _ := ⟨storesOk_reset, trivial, rfl⟩
  charts _ := chartsOk_reset

theorem enrolmentInFlight_discard (p : Port) (e : Option Operation) :
    enrolmentInFlight (e.map (discardFor p)) = enrolmentInFlight e := by
  cases e with
  | none => rfl
  | some op => cases op <;> rfl

theorem sliceInFlight_discard {p : Port} {s t : State} (h : t.engine = s.engine.map (discardFor p)) :
    sliceInFlight t = sliceInFlight s := by
  unfold sliceInFlight
  rw [h]
  cases s.engine with
  | none => rfl
  | some op => cases op <;> rfl

/-- A link reset marks the reply of the operation in flight, and takes nothing of what it is to write (R161). -/
theorem EngineValuesOk.discard {s t : State} {p : Port} (h : EngineValuesOk s)
    (he : t.engine = s.engine.map (discardFor p)) (hc : ∀ n pr, t.chart n pr = s.chart n pr)
    (hcal : t.calendar = s.calendar) : EngineValuesOk t := by
  have hu : EngineValuesOk { t with engine := s.engine } :=
    h.mono rfl hc (Nat.le_of_eq (congrArg Calendar.day hcal.symm)) fun _ => congrArg Calendar.nextStore hcal
  unfold EngineValuesOk at hu ⊢
  rw [he]
  cases hs : s.engine with
  | none => trivial
  | some op =>
    rw [hs] at hu
    cases op <;> exact hu

theorem stepKeeps_linkReset (p : Port) (s : State) : StepKeeps s (onLine (linkReset p) s) := by
  unfold onLine
  split
  · exact .refl s
  · unfold linkReset
    split
    · exact .refl s
    · have hcal : (s.modPort p linkResetPort).calendar = s.calendar := calendar_modPort s p _
      have hstores : (s.modPort p linkResetPort).stores = s.stores := stores_modPort s p _
      refine ⟨fun hs => hs.of_calendar hcal fun h => ?_, storesOk_of_stores hstores, fun hs => ?_, fun hs => ?_⟩
      · rw [sliceInFlight_discard (p := p) (s := s) rfl] at h
        exact hs.sweeping h
      · refine ⟨storesOk_of_stores hstores hs.1, hs.2.1.discard p, ?_⟩
        show (s.modPort p linkResetPort).calendar.enrolment = enrolledCharts (s.modPort p linkResetPort).stores +
          enrolmentInFlight (s.engine.map (discardFor p))
        rw [hcal, hstores, enrolmentInFlight_discard]
        exact hs.2.2
      · exact hs.charts.of_stores hstores (congrArg Calendar.day hcal) (notices_modPort s p _) (patterns_modPort s p _)
          (hs.engine.discard (p := p) rfl (chart_of_stores hstores) hcal)

/-! ## Every step -/

/-- Every command answers a next state and keeps the invariants of `StepKeeps`. -/
theorem exec_keeps (i : Instr) (s : State) : ∃ t, exec i s = .next t ∧ StepKeeps s t := by
  have owner : ∀ {code : RequestCode} {p : Port} {take : ByteOrder → List Octet → State → Reply × State},
      (∀ o b, Quiet s (take o b s).2) → StepKeeps s (serveOwner code p take s) :=
    fun h => stepKeeps_serveOwner fun o b => .of_quiet (h o b)
  have line : ∀ {f : State → State}, Quiet s (f s) → StepKeeps s (onLine f s) := fun h => .of_quiet (quiet_onLine h)
  have onChart : ∀ {code : RequestCode} {f : Caller → Nat → Process → State → State},
      (∀ c n pr, n < Config.stores → enrolmentInFlight s.engine = 0 → StepKeeps s (f c n pr s)) →
        StepKeeps s (withGranted code (fun c => onChart c (f c)) s) :=
    fun h => stepKeeps_withGranted fun c h0 => stepKeeps_onChart h0 fun n pr hn => h c n pr hn h0
  cases i with
  | deviceReset => exact ⟨_, rfl, stepKeeps_deviceReset s⟩
  | resetRelease a b c =>
    obtain ⟨t, ht, hq⟩ := quiet_resetRelease a b c s
    exact ⟨t, ht, .of_quiet hq⟩
  | linkReset p => exact ⟨_, rfl, stepKeeps_linkReset p s⟩
  | frameAbandoned p cause => exact ⟨_, rfl, line (quiet_frameAbandoned p cause s)⟩
  | frameReceived p octets => exact ⟨_, rfl, line (quiet_receiveOctets p _ s)⟩
  | abortFrame p => exact ⟨_, rfl, line (quiet_abortFrame p s)⟩
  | replySent p => exact ⟨_, rfl, line (.modPort s p _)⟩
  | frameStart p => exact ⟨_, rfl, line (quiet_receiveOctet p _ s)⟩
  | octetInError p => exact ⟨_, rfl, line (.modPort s p _)⟩
  | receiverResumes p => exact ⟨_, rfl, line (.modPort s p _)⟩
  | postReading => exact ⟨_, rfl, stepKeeps_withGranted fun c => stepKeeps_acceptReading c⟩
  | classify => exact ⟨_, rfl, stepKeeps_classifyStage s⟩
  | evaluationCommit x =>
    cases x with
    | whole => exact ⟨_, rfl, stepKeeps_commitStage s⟩
    | part => exact ⟨_, rfl, stepKeeps_commitPart s⟩
  | enrolChart => exact ⟨_, rfl, onChart fun c n pr hn => stepKeeps_enrolGrant c hn pr⟩
  | enrolChartCommit => exact ⟨_, rfl, stepKeeps_enrolCommit s⟩
  | withdrawChart => exact ⟨_, rfl, onChart fun c n pr _ => stepKeeps_withdrawGrant c n pr⟩
  | withdrawChartCommit => exact ⟨_, rfl, stepKeeps_withdrawCommit s⟩
  | suspendChart => exact ⟨_, rfl, onChart fun c n pr _ => stepKeeps_suspendTake c n pr⟩
  | resumeChart => exact ⟨_, rfl, onChart fun c n pr _ => stepKeeps_resumeTake c n pr⟩
  | restartChart =>
    exact ⟨_, rfl, onChart fun c n pr _ =>
      stepKeeps_changeEnrolled c (f := restartedChart) (fun _ => rfl) (fun _ _ h hon => h.restart hon) n pr⟩
  | setHold =>
    exact ⟨_, rfl, onChart fun c n pr _ =>
      stepKeeps_changeEnrolled c (f := fun ch => { ch with hold := carriedHold c }) (fun _ => rfl)
        (fun _ _ h hon => h.withHold hon _) n pr⟩
  | setInstrument => exact ⟨_, rfl, stepKeeps_withGranted fun c => stepKeeps_instrumentTake c⟩
  | readChart => exact ⟨_, rfl, onChart fun c n pr _ => .replied c _⟩
  | restoreChart => exact ⟨_, rfl, onChart fun c n pr hn => stepKeeps_restoreGrant c hn pr⟩
  | restoreChartCommit => exact ⟨_, rfl, stepKeeps_restoreCommit s⟩
  | sweepSlice x =>
    cases x with
    | whole => exact ⟨_, rfl, stepKeeps_sliceStage s⟩
    | part => exact ⟨_, rfl, stepKeeps_slicePart s⟩
  | stageLot p => exact ⟨_, rfl, owner fun o b => quiet_stageLotTake p o b s⟩
  | promoteLot p => exact ⟨_, rfl, owner fun o b => quiet_promoteLotTake p o b s⟩
  | retireLot p => exact ⟨_, rfl, owner fun o b => quiet_retireLotTake o b s⟩
  | readLot p => exact ⟨_, rfl, owner fun o b => quiet_readLotTake p o b s⟩
  | listLots p => exact ⟨_, rfl, owner fun o b => quiet_listLotsTake o b s⟩
  | stageProfile p => exact ⟨_, rfl, owner fun o b => quiet_stageProfileTake p o b s⟩
  | promoteProfile p => exact ⟨_, rfl, owner fun o b => quiet_promoteProfileTake p o b s⟩
  | readProfile p => exact ⟨_, rfl, owner fun o b => quiet_readProfileTake p o b s⟩
  | writePattern p => exact ⟨_, rfl, stepKeeps_serveOwner fun o b => stepKeeps_writePatternTake o b s⟩
  | readPattern p => exact ⟨_, rfl, owner fun o b => quiet_readPatternTake o b s⟩
  | listNotices p => exact ⟨_, rfl, owner fun o b => quiet_listNoticesTake o b s⟩
  | acknowledgeNotice p => exact ⟨_, rfl, stepKeeps_serveOwner fun o b => stepKeeps_acknowledgeTake o b s⟩
  | closeDay p => exact ⟨_, rfl, stepKeeps_serveOwner fun o b => stepKeeps_closeDayTake o b s⟩
  | setCalendar p => exact ⟨_, rfl, stepKeeps_serveOwner fun o b => stepKeeps_setCalendarTake o b s⟩
  | setLateWindow p => exact ⟨_, rfl, stepKeeps_serveOwner fun o b => stepKeeps_setLateWindowTake o b s⟩
  | readCalendar p => exact ⟨_, rfl, owner fun _ _ => .refl s⟩
  | setWindow p => exact ⟨_, rfl, owner fun o b => quiet_setWindowTake o b s⟩
  | setPortOptions p => exact ⟨_, rfl, owner fun o b => quiet_setPortOptionsTake p o b s⟩
  | readFlags p => exact ⟨_, rfl, owner fun _ _ => .refl s⟩
  | clearFlags p => exact ⟨_, rfl, owner fun _ _ => quiet_changeFlags p _ s⟩
  | setFlagEnables p => exact ⟨_, rfl, owner fun _ _ => quiet_changeFlags p _ s⟩
  | identify p => exact ⟨_, rfl, owner fun _ _ => .refl s⟩

/-- No invariant of `StepKeeps` looks at the queue of commands. -/
theorem stepKeeps_step {s t : State} (h : step s = .next t) : StepKeeps s t := by
  unfold step at h
  split at h
  · cases h
    exact .refl s
  · next c rest _ =>
    obtain ⟨u, hu, hkeeps⟩ := exec_keeps c { s with pending := rest }
    cases hu.symm.trans h
    exact ⟨hkeeps.calendar, hkeeps.stores, hkeeps.enrolment, fun hs => hkeeps.charts
      ⟨hs.reference.of_lots (.set_pending s rest), hs.calendar, hs.enrolment, hs.charts⟩⟩

/-- Settles O58: work on charts enrols and withdraws none; the grants and commits of enrolments, restores and
withdrawals move the count and the charts together. -/
theorem enrolmentCountIsRight : Obligations.EnrolmentCountIsRight := fun _ _ hs h => (stepKeeps_step h).enrolment hs

/-- Settles O56: each command keeps the calendar and the Store Table; with the operation in flight holding values in
range, each write of a chart keeps them so. -/
theorem calendarAndStoresKeepTheirForm : Obligations.CalendarAndStoresKeepTheirForm :=
  ⟨fun _ _ hs h => (stepKeeps_step h).calendar hs, fun _ _ hs h => (stepKeeps_step h).stores hs,
    fun _ _ href hcal henr hcharts h => (stepKeeps_step h).charts ⟨href, hcal, henr, hcharts⟩⟩

end Sys2Proof.Machine

namespace Sys2Proof.Machine

/-! ## Suspend, Resume, Restart and Set Hold on a granted request (R52, R56 to R59) -/

section Granted
variable {s : State} {c : Caller}

theorem exec_suspendChart (h : Granted s .suspendChart c) :
    exec .suspendChart s = .next (onChart c (suspendTake c) s) := congrArg Host.Outcome.next (withGranted_at h _)

theorem exec_resumeChart (h : Granted s .resumeChart c) :
    exec .resumeChart s = .next (onChart c (resumeTake c) s) := congrArg Host.Outcome.next (withGranted_at h _)

theorem exec_restartChart (h : Granted s .restartChart c) :
    exec .restartChart s = .next (onChart c (changeEnrolled c restartedChart) s) :=
  congrArg Host.Outcome.next (withGranted_at h _)

theorem exec_setHold (h : Granted s .setHold c) :
    exec .setHold s = .next (onChart c (changeEnrolled c fun ch => { ch with hold := carriedHold c }) s) :=
  congrArg Host.Outcome.next (withGranted_at h _)

end Granted

section Edits
variable {c : Caller} {n : Nat} {pr : Process} {s : State}

theorem suspendTake_off (h : (s.chart n pr).state = .off) :
    suspendTake c n pr s = finishOperation c (.bare .notEnrolled) s := by
  simp only [suspendTake, h]

theorem suspendTake_running (h : (s.chart n pr).state = .active ∨ (s.chart n pr).state = .overdue) :
    suspendTake c n pr s = finishOperation c (stateReply .suspended) (s.modChart n pr suspendedChart) := by
  rcases h with h | h <;> simp only [suspendTake, h]

theorem suspendTake_suspended (h : (s.chart n pr).state = .suspended) :
    suspendTake c n pr s = finishOperation c (stateReply .suspended) s := by
  simp only [suspendTake, h]

theorem resumeTake_badOption (h : 1 < u8 c.request.body 3) :
    resumeTake c n pr s = finishOperation c (.bare .badValue) s := by
  obtain ⟨k, hk⟩ := Nat.exists_eq_add_of_le' h
  simp only [resumeTake, hk]

/-- The restart option is no (0) or yes (1). -/
theorem resumeTake_option (h : u8 c.request.body 3 ≤ 1) :
    resumeTake c n pr s = resumeWith c (decide (u8 c.request.body 3 = 1)) n pr s := by
  obtain h0 | h1 : u8 c.request.body 3 = 0 ∨ u8 c.request.body 3 = 1 := by omega
  · simp only [resumeTake, h0]
    rfl
  · simp only [resumeTake, h1]
    rfl

theorem resumeWith_off {restart : Bool} (h : (s.chart n pr).state = .off) :
    resumeWith c restart n pr s = finishOperation c (.bare .notEnrolled) s := by
  simp only [resumeWith, h]

theorem resumeWith_suspended {restart : Bool} (h : (s.chart n pr).state = .suspended) :
    resumeWith c restart n pr s =
      finishOperation c (stateReply .active) (s.modChart n pr (resumedChart restart)) := by
  simp only [resumeWith, h]

theorem resumeWith_active {restart : Bool} (h : (s.chart n pr).state = .active) :
    resumeWith c restart n pr s = finishOperation c (stateReply .active) s := by
  simp only [resumeWith, h]

theorem resumeWith_overdue {restart : Bool} (h : (s.chart n pr).state = .overdue) :
    resumeWith c restart n pr s = finishOperation c (stateReply .overdue) s := by
  simp only [resumeWith, h]

theorem changeEnrolled_off {f : Chart → Chart} (h : (s.chart n pr).state = .off) :
    changeEnrolled c f n pr s = finishOperation c (.bare .notEnrolled) s := if_pos h

theorem changeEnrolled_on {f : Chart → Chart} (h : (s.chart n pr).state ≠ .off) :
    changeEnrolled c f n pr s = finishOperation c (.bare .ok) (s.modChart n pr f) := if_neg h

end Edits

/-- Settles O43: each request through the chart it names, then its outcome by the state of that chart. -/
theorem chartStateEdits : Obligations.ChartStateEdits := by
  refine ⟨fun s c hbad => ?unnamed, fun s c pr hstore hpr => ?named⟩
  case unnamed =>
    have hnone := onChart_none (namedChart_eq_none hbad)
    exact ⟨fun h => by rw [exec_suspendChart h, hnone], fun h => by rw [exec_resumeChart h, hnone],
      fun h => by rw [exec_restartChart h, hnone], fun h => by rw [exec_setHold h, hnone]⟩
  case named =>
    have hnamed := onChart_some (namedChart_eq_some hstore hpr)
    refine ⟨fun hg => ?suspend, fun hg => ?resume, fun hg => ?restart, fun hg => ?hold⟩
    case suspend =>
      rw [exec_suspendChart hg, hnamed]
      exact ⟨fun h => congrArg _ (suspendTake_off h), fun h => congrArg _ (suspendTake_running h),
        fun h => congrArg _ (suspendTake_suspended h)⟩
    case resume =>
      rw [exec_resumeChart hg, hnamed]
      refine ⟨fun h => congrArg _ (resumeTake_badOption h), fun h => ?_⟩
      rw [resumeTake_option h]
      refine ⟨fun hs => congrArg _ (resumeWith_off hs), fun hs h0 => ?_, fun hs h1 => ?_,
        fun hs => congrArg _ (resumeWith_active hs), fun hs => congrArg _ (resumeWith_overdue hs)⟩
      · rw [h0]
        exact congrArg _ (resumeWith_suspended hs)
      · rw [h1]
        exact congrArg _ (resumeWith_suspended hs)
    case restart =>
      rw [exec_restartChart hg, hnamed]
      exact ⟨fun h => congrArg _ (changeEnrolled_off h), fun h => congrArg _ (changeEnrolled_on h)⟩
    case hold =>
      rw [exec_setHold hg, hnamed]
      exact ⟨fun h => congrArg _ (changeEnrolled_off h), fun h => congrArg _ (changeEnrolled_on h)⟩

end Sys2Proof.Machine

namespace Sys2Proof.Machine

/-! ## The id of an insertion (R113) -/

theorem nextId_eq {n : Nat} (h : n ≤ 65535) : nextId n = n % 65535 + 1 := by
  unfold nextId Config.max16
  split
  · rw [Nat.mod_eq_of_lt (by assumption)]
  · rw [show n = 65535 by omega]

/-- The search passes over held ids from its start on, and ends on a free one while it has ids left to look at. -/
theorem freeId_spec (held : List Nat) (fuel id : Nat) (h : 1 ≤ id ∧ id ≤ 65535) :
    ∃ k ≤ fuel, freeId held fuel id = (id - 1 + k) % 65535 + 1 ∧ (∀ j < k, (id - 1 + j) % 65535 + 1 ∈ held) ∧
      (k < fuel → (id - 1 + k) % 65535 + 1 ∉ held) := by
  have hstart : (id - 1 + 0) % 65535 + 1 = id := by omega
  induction fuel generalizing id with
  | zero =>
    exact ⟨0, Nat.le_refl 0, hstart.symm, fun j hj => absurd hj (Nat.not_lt_zero j), fun hk => absurd hk (by omega)⟩
  | succ fuel ih =>
    unfold freeId
    split
    · next hheld =>
      have hshift : ∀ k, (nextId id - 1 + k) % 65535 + 1 = (id - 1 + (k + 1)) % 65535 + 1 := fun k => by
        rw [nextId_eq h.2]
        omega
      obtain ⟨k, hk, hid, hbefore, hfree⟩ := ih (nextId id) (by rw [nextId_eq h.2]; omega)
        (by rw [nextId_eq h.2]; omega)
      rw [hshift] at hid hfree
      refine ⟨k + 1, Nat.succ_le_succ hk, hid, fun j hj => ?_, fun hlt => hfree (Nat.lt_of_succ_lt_succ hlt)⟩
      cases j with
      | zero => rwa [hstart]
      | succ j =>
        rw [← hshift]
        exact hbefore j (Nat.lt_of_succ_lt_succ hj)
    · next hfree =>
      exact ⟨0, Nat.zero_le _, hstart.symm, fun j hj => absurd hj (Nat.not_lt_zero j), fun _ => by rwa [hstart]⟩

/-- Among 64 ids in a row one is not held by fewer than 64 entries. -/
theorem not_all_held {held : List Nat} (h : held.length < 64) (n : Nat) :
    ¬ ∀ j < 64, (n + j) % 65535 + 1 ∈ held := by
  intro hall
  have hnodup : ((List.range 64).map fun j => (n + j) % 65535 + 1).Nodup := by
    refine List.Nodup.map_on (fun i hi j hj hij => ?_) List.nodup_range
    rw [List.mem_range] at hi hj
    omega
  have hsub : ((List.range 64).map fun j => (n + j) % 65535 + 1) ⊆ held := fun x hx => by
    obtain ⟨j, hj, rfl⟩ := List.mem_map.1 hx
    exact hall j (List.mem_range.1 hj)
  have hle := (hnodup.subperm hsub).length_le
  rw [List.length_map, List.length_range] at hle
  omega

/-- An insertion takes the first free id from the counter on (R113). -/
theorem idForInsertion_spec {q : NoticeQueue} (hnext : 1 ≤ q.nextId ∧ q.nextId ≤ 65535) (hlen : q.entries.length < 64) :
    ∃ k, idForInsertion q = (q.nextId - 1 + k) % 65535 + 1 ∧ (∀ e ∈ q.entries, e.id ≠ idForInsertion q) ∧
      ∀ j < k, ∃ e ∈ q.entries, e.id = (q.nextId - 1 + j) % 65535 + 1 := by
  obtain ⟨k, hk, hid, hbefore, hfree⟩ := freeId_spec (q.entries.map (·.id)) 64 q.nextId hnext
  have hlt : k < 64 := Nat.lt_of_le_of_ne hk fun h64 =>
    not_all_held (by rwa [List.length_map]) (q.nextId - 1) (h64 ▸ hbefore)
  refine ⟨k, hid, fun e he heq => hfree hlt ?_, fun j hj => List.mem_map.1 (hbefore j hj)⟩
  rw [← hid]
  exact List.mem_map.2 ⟨e, he, heq⟩

/-! ## The three answers to an offer (R114 to R119) -/

theorem sameSubject_iff (o : Offer) (e : Notice) :
    sameSubject o e = true ↔ e.store = o.store ∧ e.process = o.process ∧ e.cls = o.cls := by
  simp only [sameSubject, Bool.and_eq_true, beq_iff_eq, and_assoc]

theorem mergeEntry_eq {o : Offer} {e : Notice} (h : e.occurrences ≤ 255) : mergeEntry o e =
    { e with
      occurrences := min 255 (e.occurrences + 1), lastDay := o.day, kind := o.kind, latestCode := o.code
      matched := o.matched, deviations := o.deviations, missed := o.missed, parkedLot := o.parkedLot
      severity := if severityNumber e.severity < severityNumber o.severity then o.severity else e.severity
      peakCode := if severityNumber e.severity < severityNumber o.severity then o.code else e.peakCode } := by
  have hocc : (if e.occurrences < Config.max8 then e.occurrences + 1 else e.occurrences) =
      min 255 (e.occurrences + 1) := by
    unfold Config.max8
    split <;> omega
  simp only [mergeEntry, hocc, decide_eq_true_eq]

/-- The entry of the offer's chart and class is merged, and it alone (R114, R115). -/
theorem takeOffer_merged {o : Offer} {s : State} {e : Notice} {before after : List Notice}
    (hsplit : s.notices.entries = before ++ e :: after) (hsame : sameSubject o e = true)
    (hother : ∀ x ∈ before ++ after, ¬ sameSubject o x = true) :
    takeOffer o s = (.merged e.id, raiseAll .notice
      { s with notices := { s.notices with entries := before ++ mergeEntry o e :: after } }) := by
  have hfind : s.notices.entries.find? (sameSubject o) = some e :=
    List.find?_eq_some_iff_append.2 ⟨hsame, before, after, hsplit, fun x hx => by
      simpa using hother x (List.mem_append_left after hx)⟩
  have hkept : ∀ l : List Notice, (∀ x ∈ l, ¬ sameSubject o x = true) →
      l.map (fun x => if sameSubject o x then mergeEntry o x else x) = l := fun l hl =>
    (List.map_congr_left fun x hx => if_neg (hl x hx)).trans (List.map_id l)
  simp only [takeOffer, hfind]
  rw [hsplit, List.map_append, List.map_cons, if_pos hsame,
    hkept before fun x hx => hother x (List.mem_append_left _ hx),
    hkept after fun x hx => hother x (List.mem_append_right _ hx)]

theorem takeOffer_inserted {o : Offer} {s : State} (hnone : ∀ e ∈ s.notices.entries, ¬ sameSubject o e = true)
    (hlen : s.notices.entries.length < 64) : takeOffer o s =
      (.inserted (idForInsertion s.notices), (if s.notices.entries.length = 47 then raiseAll .high else fun t => t)
        (raiseAll .notice { s with notices := ⟨s.notices.entries ++ [newEntry (idForInsertion s.notices) o],
          nextId (idForInsertion s.notices)⟩ })) := by
  have hroom : s.notices.entries.length < Config.noticeEntries := hlen
  simp only [takeOffer, List.find?_eq_none.2 hnone, if_pos hroom, Config.noticeHigh, Nat.reduceEqDiff]
  split <;> rfl

theorem takeOffer_full {o : Offer} {s : State} (hnone : ∀ e ∈ s.notices.entries, ¬ sameSubject o e = true)
    (hlen : s.notices.entries.length = 64) : takeOffer o s = (.refused, raiseAll .owed s) := by
  have hfull : ¬ s.notices.entries.length < Config.noticeEntries := Nat.not_lt.2 (Nat.le_of_eq hlen.symm)
  simp only [takeOffer, List.find?_eq_none.2 hnone, if_neg hfull]

/-- A refused offer is owed to its chart (R118, R120). -/
theorem offerOrOwe_refused {o : Offer} {s : State} (h : (takeOffer o s).1 = .refused) : offerOrOwe o s =
    (.refused, (takeOffer o s).2.modChart o.store o.process fun c => { c with owed := c.owed.mark o.cls }) := by
  unfold offerOrOwe
  generalize takeOffer o s = out at h ⊢
  rcases out with ⟨_ | _ | _, t⟩
  · cases h
  · cases h
  · rfl

/-- One entry for each chart and class (R114). -/
theorem not_sameSubject_of_nodup {o : Offer} {e : Notice} {before after : List Notice}
    (h : ((before ++ e :: after).map fun x => (x.store, x.process, x.cls)).Nodup) (he : sameSubject o e = true) :
    ∀ x ∈ before ++ after, ¬ sameSubject o x = true := by
  intro x hx hsame
  rw [List.map_append, List.map_cons, List.nodup_middle, List.nodup_cons, ← List.map_append] at h
  obtain ⟨hs, hp, hc⟩ := (sameSubject_iff o e).1 he
  obtain ⟨hs', hp', hc'⟩ := (sameSubject_iff o x).1 hsame
  refine h.1 (List.mem_map.2 ⟨x, hx, ?_⟩)
  rw [hs, hp, hc, hs', hp', hc']

/-- Settles O28: the three answers by whether an entry of the chart and class is held, and whether there is room; the
id of an insertion by the search for a free one. -/
theorem offerIsMergedInsertedOrRefused : Obligations.OfferIsMergedInsertedOrRefused := by
  refine ⟨fun o s => ⟨offerOrOwe_taken, offerOrOwe_refused⟩, fun id => ⟨rfl, rfl, rfl⟩,
    fun w => ⟨rfl, rfl, rfl, rfl, rfl, rfl, rfl, rfl, rfl⟩, fun o s hok => ?_⟩
  obtain ⟨-, hnext, -, hsubjects, hentries⟩ := hok
  refine ⟨fun e before after hsplit hs hp hc => ?merged, fun hnone => ?_⟩
  case merged =>
    have hsame := (sameSubject_iff o e).2 ⟨hs, hp, hc⟩
    have hocc := (hentries e (hsplit ▸ List.mem_append_right before List.mem_cons_self)).2.2
    rw [takeOffer_merged hsplit hsame (not_sameSubject_of_nodup (hsplit ▸ hsubjects) hsame), mergeEntry_eq hocc]
  have hnone' : ∀ e ∈ s.notices.entries, ¬ sameSubject o e = true := fun e he h =>
    hnone e he ((sameSubject_iff o e).1 h)
  refine ⟨fun hlen => ?inserted, fun hlen => ?refused⟩
  case inserted =>
    obtain ⟨k, hid, hfree, hheld⟩ := idForInsertion_spec hnext hlen
    have hmax : idForInsertion s.notices ≤ 65535 := by omega
    refine ⟨idForInsertion s.notices, k, hid, hfree, hheld, ?_⟩
    rw [takeOffer_inserted hnone' hlen, nextId_eq hmax]
    rfl
  case refused =>
    have hfull := takeOffer_full hnone' hlen
    refine ⟨hfull, ?_⟩
    rw [offerOrOwe_refused (by rw [hfull]), hfull]

end Sys2Proof.Machine

namespace Sys2Proof.Machine

/-! ## Fields where they stand in a body (R171)

A body made of fields is read back by the offset of each field: the widths of the fields before it. -/

/-- The octets a field takes. -/
def Field.width : Field → Nat
  | .o8 _ => 1
  | .o16 _ => 2
  | .o16s _ => 2

/-- A field is what is read at an offset of a body. -/
def Field.At (o : ByteOrder) (b : List Octet) (k : Nat) : Field → Prop
  | .o8 n => u8 b k = n % 256
  | .o16 n => u16 o b k = n % 65536
  | .o16s i => s16 o b k = (BitVec.ofInt 16 i).toInt

/-- Fields stand one after another from an offset of a body on. -/
def FieldsAt (o : ByteOrder) (b : List Octet) : Nat → List Field → Prop
  | _, [] => True
  | k, f :: fs => f.At o b k ∧ FieldsAt o b (k + f.width) fs

/-- The octets that a list of fields takes. -/
def fieldsWidth (fs : List Field) : Nat := (fs.map Field.width).sum

theorem fieldsWidth_append (fs gs : List Field) : fieldsWidth (fs ++ gs) = fieldsWidth fs + fieldsWidth gs := by
  simp only [fieldsWidth, List.map_append, List.sum_append]

theorem fieldsWidth_flatMap {α : Type} {F : α → List Field} {w : Nat} (hw : ∀ a, fieldsWidth (F a) = w) (l : List α) :
    fieldsWidth (l.flatMap F) = w * l.length := by
  induction l with
  | nil => rfl
  | cons a rest ih =>
    rw [List.flatMap_cons, fieldsWidth_append, hw, ih, List.length_cons, Nat.mul_succ, Nat.add_comm]

theorem length_fieldOctets (o : ByteOrder) (f : Field) : (f.octets o).length = f.width := by
  cases f <;> cases o <;> rfl

theorem length_flatMap_octets (o : ByteOrder) (fs : List Field) :
    (fs.flatMap (Field.octets o)).length = fieldsWidth fs := by
  simp only [List.length_flatMap, length_fieldOctets, fieldsWidth]

theorem fieldAt_octets (o : ByteOrder) (f : Field) (front back : List Octet) :
    f.At o (front ++ f.octets o ++ back) front.length := by
  cases f with
  | o8 n =>
    show u8 _ _ = _
    rw [List.append_assoc]
    exact (u8_append_cons front back _).trans (BitVec.toNat_ofNat n 8)
  | o16 n => exact (u16_octets16 o _ front back).trans (BitVec.toNat_ofNat n 16)
  | o16s i =>
    show signed16 (u16 o (front ++ octets16 o (BitVec.ofInt 16 i) ++ back) front.length) = _
    rw [u16_octets16, signed16_toNat]

/-- The fields laid out in a body are read at their offsets (R171). -/
theorem fieldsAt_octets (o : ByteOrder) (fs : List Field) (front back : List Octet) :
    FieldsAt o (front ++ fs.flatMap (Field.octets o) ++ back) front.length fs := by
  induction fs generalizing front with
  | nil => trivial
  | cons f rest ih =>
    have hrest := ih (front ++ f.octets o)
    rw [List.length_append, length_fieldOctets] at hrest
    simp only [List.flatMap_cons, List.append_assoc] at hrest ⊢
    exact ⟨by simpa only [List.append_assoc] using
      fieldAt_octets o f front (rest.flatMap (Field.octets o) ++ back), hrest⟩

theorem fieldsAt_append {o : ByteOrder} {b : List Octet} {k : Nat} {fs gs : List Field} :
    FieldsAt o b k (fs ++ gs) ↔ FieldsAt o b k fs ∧ FieldsAt o b (k + fieldsWidth fs) gs := by
  induction fs generalizing k with
  | nil => simp [FieldsAt, fieldsWidth]
  | cons f rest ih =>
    rw [List.cons_append, FieldsAt, FieldsAt, ih, and_assoc, Nat.add_assoc]
    rfl

/-- Records of one width stand at its multiples. -/
theorem FieldsAt.flatMap {α : Type} {o : ByteOrder} {b : List Octet} {F : α → List Field} {w : Nat}
    (hw : ∀ a, fieldsWidth (F a) = w) {k : Nat} {l : List α} (h : FieldsAt o b k (l.flatMap F)) {i : Nat} {a : α}
    (ha : l[i]? = some a) : FieldsAt o b (k + w * i) (F a) := by
  induction l generalizing k i with
  | nil => cases ha
  | cons x rest ih =>
    rw [List.flatMap_cons, fieldsAt_append, hw] at h
    cases i with
    | zero =>
      cases ha
      exact h.1
    | succ i =>
      have hi := ih h.2 (by simpa using ha)
      rwa [Nat.add_assoc, Nat.add_comm w, ← Nat.mul_succ] at hi

theorem toInt_ofInt16 {i : Int} (h : -32768 ≤ i ∧ i ≤ 32767) : (BitVec.ofInt 16 i).toInt = i := by
  rw [BitVec.toInt_ofInt]
  exact Int.bmod_eq_of_le (by omega) (by omega)

/-! ## The layout of a chart record (R176) -/

theorem perItem_tab_eq {α : Type} {f : Patch → Channel → α} {x : PerItem α} (h : ∀ p c, f p c = x.item p c) :
    PerItem.tab f = x := by
  obtain rfl : f = x.item := funext fun p => funext (h p)
  rfl

theorem perPv_tab_eq {α : Type} {f : Group → Channel → α} {x : PerPv α} (h : ∀ g c, f g c = x.pv g c) :
    PerPv.tab f = x := by
  obtain rfl : f = x.pv := funext fun g => funext (h g)
  rfl

/-- The pairs of a deviation list, as the record lays them out. -/
def pairFields (x : Nat × Int) : List Field := [.o8 x.1, .o16s x.2]

/-- The deviations of a last result, none when it is absent. -/
def resultPairs (r : Option LastResult) : List (Nat × Int) := (r.map (·.deviations)).getD []

theorem resultPairs_length (r : Option LastResult) :
    (resultPairs r).length = match r with | some r => r.deviations.length | none => 0 := by
  cases r <;> rfl

/-- The last result's octets before its pairs. -/
def resultHead (r : Option LastResult) : List Field :=
  [.o16 ((r.map (·.day)).getD 0), .o8 ((r.map (·.code)).getD 0),
    .o8 ((r.map fun x => severityNumber x.severity).getD 0),
    .o16 ((r.map (·.matched.toNat)).getD 0), .o8 (resultPairs r).length]

theorem resultFields_eq (r : Option LastResult) :
    resultFields r = resultHead r ++ (resultPairs r).flatMap pairFields := by
  cases r <;> rfl

theorem fieldsWidth_parkedFields (pk : Option Parked) : fieldsWidth (parkedFields pk) = 28 := by
  cases pk <;> rfl

theorem fieldsWidth_resultFields (r : Option LastResult) :
    fieldsWidth (resultFields r) = 7 + 3 * (resultPairs r).length := by
  rw [resultFields_eq, fieldsWidth_append, fieldsWidth_flatMap (w := 3) fun _ => rfl]
  rfl

/-- The record's first fields, up to the presence of the last deviations. -/
def chartHead (c : Chart) : List Field :=
  [.o8 (chartStateNumber c.state), .o8 (chartMarks c), .o16 c.currentLot, .o8 c.lotRevision, .o16 c.enrolDay,
    .o16 (c.lastDay.getD 0), .o8 c.missed, .o16 (deviationPresence c).toNat]

/-- The record's fields between the per-PV items and the parked reading. -/
def chartMiddle (c : Chart) : List Field :=
  [.o16 c.hold.toNat, .o16 c.latched.toNat, .o16 c.evaluatedCount, .o16 c.staleCount, .o16 c.expiredCount]

theorem chartFields_eq (c : Chart) : chartFields c =
    chartHead c ++ (c.pvs.list.flatMap pvFields ++ (chartMiddle c ++ (parkedFields c.parked ++
      resultFields c.lastResult))) := by
  simp only [chartFields, List.append_assoc]
  rfl

theorem fieldsWidth_pvs (x : PerPv PvState) : fieldsWidth (x.list.flatMap pvFields) = 72 :=
  fieldsWidth_flatMap (w := 6) (fun _ => rfl) x.list

theorem fieldsWidth_chartFields (c : Chart) :
    fieldsWidth (chartFields c) = 129 + 3 * (resultPairs c.lastResult).length := by
  have hhead : fieldsWidth (chartHead c) = 12 := rfl
  have hmiddle : fieldsWidth (chartMiddle c) = 10 := rfl
  rw [chartFields_eq, fieldsWidth_append, fieldsWidth_append, fieldsWidth_append, fieldsWidth_append,
    fieldsWidth_pvs, fieldsWidth_parkedFields, fieldsWidth_resultFields, hhead, hmiddle]
  omega

/-- A body that holds a chart record from octet 3, and ends with it. -/
structure RecordAt (o : ByteOrder) (b : List Octet) (c : Chart) : Prop where
  head : FieldsAt o b 3 (chartHead c)
  pvs : FieldsAt o b 15 (c.pvs.list.flatMap pvFields)
  middle : FieldsAt o b 87 (chartMiddle c)
  parked : FieldsAt o b 97 (parkedFields c.parked)
  result : FieldsAt o b 125 (resultHead c.lastResult)
  pairs : FieldsAt o b 132 ((resultPairs c.lastResult).flatMap pairFields)
  length : b.length = 132 + 3 * (resultPairs c.lastResult).length

theorem recordAt_body (o : ByteOrder) (c : Chart) {front : List Octet} (h : front.length = 3) :
    RecordAt o (front ++ (chartFields c).flatMap (Field.octets o)) c := by
  have hall := fieldsAt_octets o (chartFields c) front []
  rw [List.append_nil, h] at hall
  generalize hb : front ++ (chartFields c).flatMap (Field.octets o) = b at hall ⊢
  rw [chartFields_eq, fieldsAt_append, fieldsAt_append, fieldsAt_append, fieldsAt_append, resultFields_eq,
    fieldsAt_append, fieldsWidth_pvs, fieldsWidth_parkedFields] at hall
  obtain ⟨hhead, hpvs, hmiddle, hparked, hresult, hpairs⟩ := hall
  refine ⟨hhead, hpvs, hmiddle, hparked, hresult, hpairs, ?_⟩
  rw [← hb, List.length_append, h, length_flatMap_octets, fieldsWidth_chartFields]
  omega

end Sys2Proof.Machine

namespace Sys2Proof.Machine

/-! ## A chart record read back (R61, R176) -/

theorem testBit_marks : ∀ a b c d e f g : Bool,
    let m := bitAt 0 a + bitAt 1 b + bitAt 2 c + bitAt 3 d + bitAt 4 e + bitAt 5 f + bitAt 6 g
    m < 256 ∧ m.testBit 0 = a ∧ m.testBit 1 = b ∧ m.testBit 2 = c ∧ m.testBit 3 = d ∧ m.testBit 4 = e ∧
      m.testBit 5 = f ∧ m.testBit 6 = g := by
  decide

theorem chartStateNumber_le (st : ChartState) : chartStateNumber st ≤ 3 := by cases st <;> decide

theorem chartStateOfNumber_chartStateNumber (st : ChartState) :
    chartStateOfNumber (chartStateNumber st) = some st := by cases st <;> rfl

theorem signOfOctet_signOctet (sg : Sgn) : signOfOctet (signOctet sg) = some sg := by cases sg <;> rfl

theorem signOctet_le (sg : Sgn) : signOctet sg ≤ 255 := by cases sg <;> decide

theorem severityNumber_le (sv : Severity) : severityNumber sv ≤ 3 := by cases sv <;> decide

theorem runOk_iff_beq {sg : Sgn} {n : Nat} : (sg = .zero ↔ n = 0) ↔ ((sg == .zero) == (n == 0)) = true := by
  rw [beq_iff_eq, Bool.eq_iff_iff, beq_iff_eq, beq_iff_eq]

/-- Twelve plotting values: a deviation list has at most twelve pairs (R46). -/
theorem DeviationListOk.length_le {l : List (Nat × Int)} (h : DeviationListOk l) : l.length ≤ 12 := by
  obtain ⟨hascending, hrange⟩ := h
  have hnodup : (l.map (·.1)).Nodup := (List.pairwise_map.2 hascending).imp Nat.ne_of_lt
  have hsub : l.map (·.1) ⊆ List.range 12 := by
    intro x hx
    obtain ⟨y, hy, rfl⟩ := List.mem_map.1 hx
    exact List.mem_range.2 (Nat.lt_succ_of_le (hrange y hy).1)
  simpa using (hnodup.subperm hsub).length_le

section ReadBack

variable {o : ByteOrder} {b : List Octet} {c : Chart}

theorem ChartOk.deviationListOk {day : Nat} (h : ChartOk day c) : DeviationListOk (resultPairs c.lastResult) := by
  cases hr : c.lastResult with
  | none => exact ⟨List.Pairwise.nil, fun _ hx => by cases hx⟩
  | some r =>
    obtain ⟨-, -, hlist⟩ := h.lastResult r hr
    exact hlist

theorem RecordAt.admitted (h : RecordAt o b c) (hok : ChartOk 65535 c) : admitsLength .restoreChart b.length = true :=
  (admitsLength_restoreChart _).2 (List.mem_map.2
    ⟨(resultPairs c.lastResult).length, List.mem_range.2 (Nat.lt_succ_of_le hok.deviationListOk.length_le),
      h.length.symm⟩)

theorem RecordAt.head_values (h : RecordAt o b c) (hok : ChartOk 65535 c) :
    u8 b 3 = chartStateNumber c.state ∧ u16 o b 5 = c.currentLot ∧ u8 b 7 = c.lotRevision ∧
      u16 o b 8 = c.enrolDay ∧ u16 o b 10 = c.lastDay.getD 0 ∧ u8 b 12 = c.missed ∧
      u16 o b 13 = (deviationPresence c).toNat := by
  obtain ⟨hstate, -, hlot, hrevision, henrol, hlast, hmissed, hpresence, -⟩ := h.head
  have hday : c.lastDay.getD 0 ≤ 65535 := by
    cases hl : c.lastDay with
    | none => decide
    | some l => exact hok.lastDay l hl
  have hword := (deviationPresence c).isLt
  exact ⟨hstate.trans (Nat.mod_eq_of_lt (by have := chartStateNumber_le c.state; omega)),
    hlot.trans (Nat.mod_eq_of_lt (Nat.lt_succ_of_le hok.lot)),
    hrevision.trans (Nat.mod_eq_of_lt (Nat.lt_succ_of_le hok.revision)),
    henrol.trans (Nat.mod_eq_of_lt (Nat.lt_succ_of_le hok.enrolDay)),
    hlast.trans (Nat.mod_eq_of_lt (Nat.lt_succ_of_le hday)),
    hmissed.trans (Nat.mod_eq_of_lt (Nat.lt_succ_of_le hok.missed)),
    hpresence.trans (Nat.mod_eq_of_lt (by omega))⟩

theorem RecordAt.middle_values (h : RecordAt o b c) (hok : ChartOk 65535 c) :
    u16 o b 87 = c.hold.toNat ∧ u16 o b 89 = c.latched.toNat ∧ u16 o b 91 = c.evaluatedCount ∧
      u16 o b 93 = c.staleCount ∧ u16 o b 95 = c.expiredCount := by
  obtain ⟨hhold, hlatched, hevaluated, hstale, hexpired, -⟩ := h.middle
  have hmask := c.hold.isLt
  exact ⟨hhold.trans (Nat.mod_eq_of_lt (by omega)), hlatched.trans (Nat.mod_eq_of_lt c.latched.isLt),
    hevaluated.trans (Nat.mod_eq_of_lt (Nat.lt_succ_of_le hok.evaluated)),
    hstale.trans (Nat.mod_eq_of_lt (Nat.lt_succ_of_le hok.stale)),
    hexpired.trans (Nat.mod_eq_of_lt (Nat.lt_succ_of_le hok.expired))⟩

/-- The marks octet says what is present, pending and owed (R176). -/
theorem RecordAt.marks (h : RecordAt o b c) :
    bit8 b 4 0 = c.seedPending ∧ bit8 b 4 1 = c.lastDay.isSome ∧ bit8 b 4 2 = c.lastResult.isSome ∧
      bit8 b 4 3 = c.parked.isSome ∧ bit8 b 4 4 = c.owed.condition ∧ bit8 b 4 5 = c.owed.attendance ∧
      bit8 b 4 6 = c.owed.held := by
  obtain ⟨-, hmarks, -⟩ := h.head
  obtain ⟨hlt, hbits⟩ := testBit_marks c.seedPending c.lastDay.isSome c.lastResult.isSome c.parked.isSome
    c.owed.condition c.owed.attendance c.owed.held
  have hoctet : u8 b 4 = chartMarks c := hmarks.trans (Nat.mod_eq_of_lt hlt)
  have hbit : ∀ i, bit8 b 4 i = (chartMarks c).testBit i := fun i => congrArg (Nat.testBit · i) hoctet
  simp only [hbit]
  exact hbits

theorem RecordAt.carriedLastDay_eq (h : RecordAt o b c) (hok : ChartOk 65535 c) : carriedLastDay o b = c.lastDay := by
  obtain ⟨-, hmark, -⟩ := h.marks
  obtain ⟨-, -, -, -, hday, -⟩ := h.head_values hok
  rw [carriedLastDay, hmark, hday]
  cases c.lastDay <;> rfl

/-! ### The plotting values -/

theorem RecordAt.deviationMarked_eq (h : RecordAt o b c) (hok : ChartOk 65535 c) (g : Group) (x : Channel) :
    deviationMarked o b (pvNumber g x) = (c.pvs.pv g x).lastDeviation.isSome := by
  obtain ⟨-, -, -, -, -, -, hpresence⟩ := h.head_values hok
  rw [deviationMarked, hpresence, ← getLsbD_deviationPresence]
  rfl

theorem RecordAt.pv_values (h : RecordAt o b c) (hok : ChartOk 65535 c) (g : Group) (x : Channel) :
    s16 o b (pvOffset (pvNumber g x)) = (c.pvs.pv g x).lastDeviation.getD 0 ∧
      s16 o b (pvOffset (pvNumber g x) + 2) = (c.pvs.pv g x).ewma ∧
      u8 b (pvOffset (pvNumber g x) + 4) = signOctet (c.pvs.pv g x).runSign ∧
      u8 b (pvOffset (pvNumber g x) + 5) = (c.pvs.pv g x).runCount := by
  have hat : c.pvs.list[pvNumber g x]? = some (c.pvs.pv g x) := by cases g <;> cases x <;> rfl
  obtain ⟨hdeviation, hewma, hsign, hcount, -⟩ := h.pvs.flatMap (w := 6) (fun _ => rfl) hat
  obtain ⟨hdev, ⟨hlow, hhigh⟩, hrun, -⟩ := hok.pvs g x
  have hrange : -32768 ≤ (c.pvs.pv g x).lastDeviation.getD 0 ∧ (c.pvs.pv g x).lastDeviation.getD 0 ≤ 32767 := by
    cases hd : (c.pvs.pv g x).lastDeviation with
    | none => decide
    | some d =>
      obtain ⟨hge, hle⟩ := hdev d hd
      exact ⟨by rw [Option.getD_some]; omega, by rw [Option.getD_some]; omega⟩
  have hcount' : (c.pvs.pv g x).runCount ≤ 15 := hrun
  exact ⟨hdeviation.trans (toInt_ofInt16 hrange), hewma.trans (toInt_ofInt16 ⟨by omega, by omega⟩),
    hsign.trans (Nat.mod_eq_of_lt (Nat.lt_succ_of_le (signOctet_le _))),
    hcount.trans (Nat.mod_eq_of_lt (by omega))⟩

theorem RecordAt.carriedPv_eq (h : RecordAt o b c) (hok : ChartOk 65535 c) (g : Group) (x : Channel) :
    carriedPv o b (pvNumber g x) = c.pvs.pv g x := by
  obtain ⟨hdeviation, hewma, hsign, hcount⟩ := h.pv_values hok g x
  rw [carriedPv, h.deviationMarked_eq hok, hdeviation, hewma, hsign, hcount, signOfOctet_signOctet]
  obtain ⟨_ | d, e, sg, n⟩ := c.pvs.pv g x <;> rfl

theorem RecordAt.pvValid_pvNumber (h : RecordAt o b c) (hok : ChartOk 65535 c) (g : Group) (x : Channel) :
    pvValid o b (pvNumber g x) = true := by
  obtain ⟨hdeviation, hewma, hsign, hcount⟩ := h.pv_values hok g x
  obtain ⟨hdev, hrange, hmax, hrun⟩ := hok.pvs g x
  rw [pvValid, h.deviationMarked_eq hok, hdeviation, hewma, hsign, hcount, signOfOctet_signOctet]
  simp only [Bool.and_eq_true, decide_eq_true_eq, inRange_iff]
  refine ⟨⟨⟨runOk_iff_beq.1 hrun, hmax⟩, hrange⟩, ?_⟩
  cases hd : (c.pvs.pv g x).lastDeviation with
  | none => rfl
  | some d => exact (inRange_iff _ _ _).2 (hdev d hd)

theorem exists_pvNumber {i : Nat} (h : i < 12) : ∃ g x, pvNumber g x = i := by
  have hall : ∀ j : Fin 12, ∃ g ∈ allGroups, ∃ x ∈ allChannels, pvNumber g x = j.val := by decide
  obtain ⟨g, -, x, -, hi⟩ := hall ⟨i, h⟩
  exact ⟨g, x, hi⟩

/-! ### The parked reading -/

theorem RecordAt.carriedParked_eq (h : RecordAt o b c) (hok : ChartOk 65535 c) : carriedParked o b = c.parked := by
  obtain ⟨-, -, -, hmark, -⟩ := h.marks
  rw [carriedParked, hmark]
  cases hpk : c.parked with
  | none => rfl
  | some pk =>
    have hfields := h.parked
    rw [hpk] at hfields
    obtain ⟨hlot, hday, hcodes⟩ := hfields
    obtain ⟨⟨-, hlotRange⟩, hdayRange, -, hcodesRange⟩ := hok.parked pk hpk
    have hlot' : u16 o b 97 = pk.lot := hlot.trans (Nat.mod_eq_of_lt (Nat.lt_succ_of_le hlotRange))
    have hday' : u16 o b 99 = pk.day := hday.trans (Nat.mod_eq_of_lt (Nat.lt_succ_of_le hdayRange))
    have hitems : items16 o b 101 = pk.codes := perItem_tab_eq fun p x => by
      have hat : pk.codes.list[itemNumber p x]? = some (pk.codes.item p x) := by cases p <;> cases x <;> rfl
      rw [List.map_eq_flatMap] at hcodes
      obtain ⟨hcode, -⟩ := hcodes.flatMap (w := 2) (fun _ => rfl) hat
      exact hcode.trans (Nat.mod_eq_of_lt (Nat.lt_succ_of_le (hcodesRange _ (List.mem_of_getElem? hat))))
    rw [hlot', hday', hitems]
    rfl

/-! ### The last result -/

theorem RecordAt.pairCount_eq (h : RecordAt o b c) : pairCount b = (resultPairs c.lastResult).length := by
  rw [pairCount, h.length]
  omega

theorem RecordAt.carriedPairs_eq (h : RecordAt o b c) (hok : ChartOk 65535 c) :
    carriedPairs o b = resultPairs c.lastResult := by
  obtain ⟨-, hrange⟩ := hok.deviationListOk
  refine List.ext_getElem (by rw [carriedPairs, List.length_map, List.length_range, h.pairCount_eq]) fun i _ hi => ?_
  obtain ⟨hnumber, hvalue, -⟩ := h.pairs.flatMap (w := 3) (fun _ => rfl) (List.getElem?_eq_getElem hi)
  obtain ⟨hle, hlow, hhigh⟩ := hrange _ (List.getElem_mem hi)
  have hnumber' : u8 b (132 + 3 * i) = (resultPairs c.lastResult)[i].1 :=
    hnumber.trans (Nat.mod_eq_of_lt (by omega))
  have hvalue' : s16 o b (133 + 3 * i) = (resultPairs c.lastResult)[i].2 := by
    rw [show 133 + 3 * i = 132 + 3 * i + 1 by omega]
    exact hvalue.trans (toInt_ofInt16 ⟨by omega, by omega⟩)
  simp only [carriedPairs, List.getElem_map, List.getElem_range, hnumber', hvalue']

theorem RecordAt.result_values (h : RecordAt o b c) (hok : ChartOk 65535 c) {r : LastResult}
    (hr : c.lastResult = some r) :
    u16 o b 125 = r.day ∧ u8 b 127 = r.code ∧ u8 b 128 = severityNumber r.severity ∧ u16 o b 129 = r.matched.toNat := by
  have hfields := h.result
  rw [hr] at hfields
  obtain ⟨hday, hcode, hseverity, hmatched, -⟩ := hfields
  obtain ⟨hdayRange, hcodeRange, -⟩ := hok.lastResult r hr
  have hcodeOctet : r.code < 256 := by omega
  have hseverityOctet : severityNumber r.severity < 256 := by
    have := severityNumber_le r.severity
    omega
  exact ⟨hday.trans (Nat.mod_eq_of_lt (Nat.lt_succ_of_le hdayRange)), hcode.trans (Nat.mod_eq_of_lt hcodeOctet),
    hseverity.trans (Nat.mod_eq_of_lt hseverityOctet), hmatched.trans (Nat.mod_eq_of_lt r.matched.isLt)⟩

theorem RecordAt.carriedResult_eq (h : RecordAt o b c) (hok : ChartOk 65535 c) : carriedResult o b = c.lastResult := by
  obtain ⟨-, -, hmark, -⟩ := h.marks
  rw [carriedResult, hmark, h.carriedPairs_eq hok]
  cases hr : c.lastResult with
  | none => rfl
  | some r =>
    obtain ⟨hday, hcode, hseverity, hmatched⟩ := h.result_values hok hr
    rw [hday, hcode, hseverity, hmatched, severityOfNumber_severityNumber, BitVec.ofNat_toNat, BitVec.setWidth_eq]
    rfl

theorem RecordAt.resultValid (h : RecordAt o b c) (hok : ChartOk 65535 c) : resultValid o b = true := by
  obtain ⟨-, -, hmark, -⟩ := h.marks
  obtain ⟨-, -, -, -, hcount, -⟩ := h.result
  have hlist := hok.deviationListOk
  have hlength := hlist.length_le
  rw [resultValid_iff, h.carriedPairs_eq hok, pairsValid_iff, h.pairCount_eq, hmark]
  refine ⟨hcount.trans (Nat.mod_eq_of_lt (by omega)), fun hnone => ?_, fun hsome => ?_⟩
  · rw [Option.isSome_eq_false_iff, Option.isNone_iff_eq_none] at hnone
    rw [hnone]
    rfl
  · obtain ⟨r, hr⟩ := Option.isSome_iff_exists.1 hsome
    obtain ⟨-, hcode, hseverity, -⟩ := h.result_values hok hr
    obtain ⟨-, hcodeRange, -⟩ := hok.lastResult r hr
    exact ⟨hcode ▸ hcodeRange, hseverity ▸ severityNumber_le _, hlist⟩

/-! ### The whole record -/

theorem RecordAt.recordValid (h : RecordAt o b c) (hok : ChartOk 65535 c) (hon : c.state ≠ .off) :
    recordValid o b = true := by
  obtain ⟨hstate, -⟩ := h.head_values hok
  rw [recordValid_eq, hstate, chartStateOfNumber_chartStateNumber, h.resultValid hok, h.carriedLastDay_eq hok,
    h.carriedParked_eq hok]
  simp only [Bool.and_eq_true, List.all_eq_true, List.mem_range, parkedValid_iff, and_true]
  refine ⟨⟨bne_iff_ne.2 hon, fun i hi => ?_⟩, fun pk hpk => ?_⟩
  · obtain ⟨g, x, rfl⟩ := exists_pvNumber hi
    exact h.pvValid_pvNumber hok g x
  · have hparked := hok.parked pk hpk
    exact ⟨Nat.one_le_iff_ne_zero.1 hparked.lot.1, hparked.notStale⟩

theorem RecordAt.carriedChart_eq (h : RecordAt o b c) (hok : ChartOk 65535 c) : carriedChart o b = c := by
  obtain ⟨hstate, hlot, hrevision, henrol, -, hmissed, -⟩ := h.head_values hok
  obtain ⟨hhold, hlatched, hevaluated, hstale, hexpired⟩ := h.middle_values hok
  obtain ⟨hseed, -, -, -, hcondition, hattendance, hheld⟩ := h.marks
  have hpvs : (PerPv.tab fun g x => carriedPv o b (pvNumber g x)) = c.pvs := perPv_tab_eq (h.carriedPv_eq hok)
  simp only [carriedChart, hstate, chartStateOfNumber_chartStateNumber, Option.getD_some, hseed, hlot, hrevision,
    henrol, h.carriedLastDay_eq hok, hmissed, hpvs, hhold, hlatched, h.carriedResult_eq hok, hcondition, hattendance,
    hheld, h.carriedParked_eq hok, hevaluated, hstale, hexpired, BitVec.ofNat_toNat, BitVec.setWidth_eq]

end ReadBack

/-- Settles O46: the body of a Restore Chart made of a chart record holds each field at the offset where Restore Chart
reads it, and every field in range is read back as it was written. -/
theorem readRecordIsRestored : Obligations.ReadRecordIsRestored := by
  intro order ch front hfront hok hon
  have hrecord := recordAt_body order ch hfront
  have hlength := hrecord.length
  rw [resultPairs_length] at hlength
  exact ⟨hlength, hrecord.admitted hok, hrecord.recordValid hok hon, hrecord.carriedChart_eq hok⟩

end Sys2Proof.Machine

namespace Sys2Proof.Machine

/-! ## A commit that parks the reading (R50, R69, R84, R92) -/

/-- The PARKED reply: OWED tells a refused HELD offer (R92). -/
theorem parkedReply_eq (lot : Nat) (a : OfferAnswer) : parkedReply lot a =
    ⟨.parked, [.o8 (if a = .refused then 8 else 0), .o16 lot, .o16 a.noticeId]⟩ := by
  rw [parkedReply, isRefused_eq]
  simp [bitAt]

theorem finishHeld_eq (rd : Reading) (s : State) : finishHeld rd s =
    (⟨.parked,
      [.o8 (if (offerOrOwe (heldOffer rd.store rd.process rd.day rd.lot) s).1 = .refused then 8 else 0), .o16 rd.lot,
        .o16 (offerOrOwe (heldOffer rd.store rd.process rd.day rd.lot) s).1.noticeId]⟩,
      (offerOrOwe (heldOffer rd.store rd.process rd.day rd.lot) s).2) :=
  congrArg (·, _) (parkedReply_eq rd.lot _)

theorem moveLot_retired {s : State} {pr : Process} {new : Nat} (h : lotActive s pr new = false) (old : Nat) :
    moveLot pr old new s = none := if_neg (by rw [h]; decide)

section Commit
variable {ev : Evaluation} {res : Result} {s : State}

theorem commitWrite_retired (h : lotActive s ev.reading.process ev.reading.lot = false) :
    commitWrite ev res s = none := by
  simp only [commitWrite, moveLot_retired h]

theorem runCommit_parks (h : commitWrite ev res s = none) :
    runCommit ev res s = finishHeld ev.reading (fillSlot ev.reading s) := by
  simp only [runCommit, h]

theorem runCommit_writes {offers : List Offer} {t : State} (h : commitWrite ev res s = some (offers, t)) :
    runCommit ev res s = finishOffers ev res offers 0 false t := by
  simp only [runCommit, h]

theorem evalPart_parks (h : commitWrite ev res s = none) :
    evalPart (.classified ev res) s = (.parking ev.reading, fillSlot ev.reading s) := by
  simp only [evalPart, h]

end Commit

theorem exec_commit_end {s : State} {c : Caller} {rep : Reply} (he : s.engine = some (.evaluating c (.ending rep))) :
    exec (.evaluationCommit .part) s = .next (finishOperation c rep s) := by
  show Host.Outcome.next (commitPart s) = _
  simp only [commitPart, he]

/-- Settles O40: the lot question fails, so the commit is a filled slot and then the HELD offer, in one step or in
three. -/
theorem commitParksTheReading : Obligations.CommitParksTheReading := by
  refine ⟨fun s c ev res => ?retired, fun s c rd => ?parking⟩
  case retired =>
    intro rd here ha
    have hw : commitWrite ev res s = none := commitWrite_retired ha
    have hrun := (runCommit_parks hw).trans (finishHeld_eq rd (fillSlot rd s))
    refine ⟨⟨_, _, rfl, hrun, fun he => ?whole⟩, evalPart_parks hw, fun he => ?part⟩
    case whole =>
      rw [exec_commit_whole he, hrun]
      rfl
    case part =>
      rw [exec_commit_part he (fun _ h => EvalStage.noConfusion h) (fun _ h => EvalStage.noConfusion h),
        evalPart_parks hw]
      rfl
  case parking =>
    intro answer after
    have hpart : evalPart (.parking rd) s = (.ending _, after) :=
      congrArg (fun out : Reply × State => (EvalStage.ending out.1, out.2)) (finishHeld_eq rd s)
    refine ⟨hpart, fun he => ?_, fun rep he => exec_commit_end he⟩
    rw [exec_commit_part he (fun _ h => EvalStage.noConfusion h) (fun _ h => EvalStage.noConfusion h), hpart]
    rfl

end Sys2Proof.Machine

namespace Sys2Proof.Machine

/-! ## CLASSIFY and COMMIT of a posted reading, against a retry's (R82, R83, R93) -/

theorem exec_classify {s : State} {c : Caller} {ev : Evaluation}
    (he : s.engine = some (.evaluating c (.computed ev))) :
    exec .classify s = .next { s with engine := some (.evaluating c (.classified ev (classifyNow ev s))) } := by
  show Host.Outcome.next (classifyStage s) = _
  simp only [classifyStage, he]

/-- The end of an operation does not depend on the stage it ends from (R149). -/
theorem finishOperation_set_engine (c : Caller) (rep : Reply) (s : State) (e : Option Operation) :
    finishOperation c rep { s with engine := e } = finishOperation c rep s := rfl

/-! ## The start of a parked retry (R134) -/

theorem lt_lowestDay_iff (rdDay day window : Nat) : rdDay < lowestDay day window ↔ rdDay + window < day := by
  unfold lowestDay
  omega

section Retry
variable {s : State} {n : Nat} {pr : Process} {pk : Parked}

theorem retryStart_retired (h : findLot (s.table pr).lots pk.lot = none) : retryStart n pr pk s = (none, s) := by
  simp only [retryStart, h]

theorem retryStart_active {lot : LotRecord} (h : findLot (s.table pr).lots pk.lot = some lot) :
    retryStart n pr pk s = recheck (parkedReading n pr pk) lot (s.table pr).profile s := by
  simp only [retryStart, h]

end Retry

section Recheck
variable {rd : Reading} {lot : LotRecord} {profile : Profile} {s : State}

theorem recheck_late (h : rd.day + s.calendar.lateWindow < s.calendar.day) : recheck rd lot profile s =
    (none, s.modChart rd.store rd.process fun c => { c with parked := none, staleCount := satInc16 c.staleCount }) :=
  if_pos ((lt_lowestDay_iff ..).2 h)

theorem recheck_inTime (h : s.calendar.day ≤ rd.day + s.calendar.lateWindow) : recheck rd lot profile s =
    (some (evaluate rd s.calendar.day s.calendar.lateWindow lot profile s), s) :=
  if_neg fun hlt => Nat.not_lt.2 h ((lt_lowestDay_iff ..).1 hlt)

end Recheck

/-- Settles O48: the stages of a posted reading read nothing of the operation in flight, the retry starts by the lot
question and the recheck, and its commit writes the chart or parks the reading by the answer of `commitWrite`. -/
theorem retryOfAParkedReading : Obligations.RetryOfAParkedReading := by
  refine ⟨fun s c ev => exec_classify rfl, fun s c ev res => ⟨(runCommit ev res s).1, ?commit⟩, fun s n pr pk =>
    ⟨retryStart_retired, fun lot hlot hlate => ?late, fun lot hlot htime => ?inTime, fun ev res =>
      ⟨fun offers t hw => ?written, fun hw => ?parked⟩⟩⟩
  case commit => rw [exec_commit_whole rfl, runCommit_engine, finishOperation_set_engine]
  case late => exact (retryStart_active hlot).trans (recheck_late hlate)
  case inTime => exact ⟨_, (retryStart_active hlot).trans (recheck_inTime htime), rfl, rfl⟩
  case written =>
    rw [runCommit_writes hw]
    exact makeOffers_state offers 0 false t
  case parked =>
    rw [runCommit_parks hw]
    rfl

end Sys2Proof.Machine

namespace Sys2Proof.Machine

/-! ## The ACCEPT checks of a port's reading (R65, R66) -/

/-- The reading that a Post Reading carries for a process (R174). -/
def carriedReading (c : Caller) (pr : Process) : Reading :=
  ⟨u16 c.order c.request.body 0, pr, u16 c.order c.request.body 3, u16 c.order c.request.body 5,
    items16 c.order c.request.body 7⟩

theorem exec_postReading {s : State} {c : Caller} (h : Granted s .postReading c) :
    exec .postReading s = .next (acceptReading c s) := congrArg Host.Outcome.next (withGranted_at h _)

theorem inWindow_iff (w : Window) (store : Nat) :
    inWindow w store = true ↔ w.base ≤ store ∧ store < w.base + w.size := by
  simp only [inWindow, Bool.and_eq_true, decide_eq_true_eq]

section PortChecks
variable {c : Caller} {pr : Process} {s : State}

theorem portChecks_badProcess (h : 1 < u8 c.request.body 2) : portChecks c s = .error (.bare .badValue) := by
  simp only [portChecks, processOfNumber_eq_none h]

/-- Checks 2 to 4, with the process named. -/
theorem portChecks_named (hp : u8 c.request.body 2 = processNumber pr) : portChecks c s =
    if inWindow (s.port c.port).window (carriedReading c pr).store then
      if (s.chart (carriedReading c pr).store pr).state = .off then .error (.bare .notEnrolled)
      else if (s.chart (carriedReading c pr).store pr).state = .suspended then .error (.bare .suspended)
      else .ok (carriedReading c pr)
    else .error (.bare .outOfWindow) := by
  simp only [portChecks, hp, processOfNumber_processNumber]
  rfl

variable (hp : u8 c.request.body 2 = processNumber pr)
include hp

theorem portChecks_outside
    (h : ¬ inWindow (s.port c.port).window (carriedReading c pr).store = true) :
    portChecks c s = .error (.bare .outOfWindow) := by
  rw [portChecks_named hp, if_neg h]

variable (hw : inWindow (s.port c.port).window (carriedReading c pr).store = true)
include hw

theorem portChecks_off (h : (s.chart (carriedReading c pr).store pr).state = .off) :
    portChecks c s = .error (.bare .notEnrolled) := by
  rw [portChecks_named hp, if_pos hw, if_pos h]

theorem portChecks_suspended (h : (s.chart (carriedReading c pr).store pr).state = .suspended) :
    portChecks c s = .error (.bare .suspended) := by
  rw [portChecks_named hp, if_pos hw, if_neg (by rw [h]; decide), if_pos h]

theorem portChecks_running (h : (s.chart (carriedReading c pr).store pr).state = .active ∨
    (s.chart (carriedReading c pr).store pr).state = .overdue) : portChecks c s = .ok (carriedReading c pr) := by
  rw [portChecks_named hp, if_pos hw]
  rcases h with h | h <;> simp [h]

end PortChecks

/-! ## The day's and the lot's checks (R67 to R70) -/

section DayChecks
variable {rd : Reading} {day window : Nat} {s : State}

theorem dayRefusal_future (h : day < rd.day) :
    dayRefusal rd day window s = some (⟨.futureDay, [.o16 day, .o8 window]⟩, s) := if_pos h

variable (hday : rd.day ≤ day)
include hday

theorem dayRefusal_tooLate (h : rd.day + window < day) :
    dayRefusal rd day window s = some (⟨.tooLate, [.o16 day, .o8 window]⟩, s) :=
  (if_neg (Nat.not_lt.2 hday)).trans (if_pos ((lt_lowestDay_iff ..).2 h))

variable (hlate : day ≤ rd.day + window)
include hlate

/-- Past the calendar's checks the chart's last day and the lot number are left to check. -/
theorem dayRefusal_inTime : dayRefusal rd day window s =
    if isStale (s.chart rd.store rd.process).lastDay rd.day then
      some (⟨.staleDay, [.o16 ((s.chart rd.store rd.process).lastDay.getD 0)]⟩,
        s.modChart rd.store rd.process fun ch => { ch with staleCount := satInc16 ch.staleCount })
    else if rd.lot = 0 then some (.bare .badValue, s)
    else none :=
  (if_neg (Nat.not_lt.2 hday)).trans (if_neg fun hlt => Nat.not_lt.2 hlate ((lt_lowestDay_iff ..).1 hlt))

theorem dayRefusal_stale {l : Nat} (hlast : (s.chart rd.store rd.process).lastDay = some l) (h : rd.day < l) :
    dayRefusal rd day window s = some (⟨.staleDay, [.o16 l]⟩,
      s.modChart rd.store rd.process fun ch => { ch with staleCount := satInc16 ch.staleCount }) := by
  rw [dayRefusal_inTime hday hlate, hlast]
  exact if_pos (decide_eq_true h)

variable (hfresh : ∀ l, (s.chart rd.store rd.process).lastDay = some l → l ≤ rd.day)
include hfresh

theorem dayRefusal_noLot (h : rd.lot = 0) : dayRefusal rd day window s = some (.bare .badValue, s) := by
  rw [dayRefusal_inTime hday hlate, (isStale_eq_false_iff ..).2 hfresh]
  exact if_pos h

theorem dayRefusal_passed (h : rd.lot ≠ 0) : dayRefusal rd day window s = none := by
  rw [dayRefusal_inTime hday hlate, (isStale_eq_false_iff ..).2 hfresh]
  exact if_neg h

end DayChecks

section Accept
variable {c : Caller} {rd : Reading} {s : State}

theorem acceptReading_refused {rep : Reply} (h : portChecks c s = .error rep) :
    acceptReading c s = finishOperation c rep s := by
  simp only [acceptReading, h]

theorem acceptReading_passed (h : portChecks c s = .ok rd) : acceptReading c s = acceptDay c rd s := by
  simp only [acceptReading, h]

theorem acceptDay_refused {rep : Reply} {t : State}
    (h : dayRefusal rd s.calendar.day s.calendar.lateWindow s = some (rep, t)) :
    acceptDay c rd s = finishOperation c rep t := by
  simp only [acceptDay, h]
  rfl

theorem acceptDay_passed (h : dayRefusal rd s.calendar.day s.calendar.lateWindow s = none) :
    acceptDay c rd s = acceptLot c rd s.calendar.day s.calendar.lateWindow s := by
  simp only [acceptDay, h]

theorem acceptLot_parked {day window : Nat} (h : findLot (s.table rd.process).lots rd.lot = none) :
    acceptLot c rd day window s =
      finishOperation c (finishHeld rd (fillSlot rd s)).1 (finishHeld rd (fillSlot rd s)).2 := by
  simp only [acceptLot, h]
  rfl

theorem acceptLot_computed {day window : Nat} {lot : LotRecord}
    (h : findLot (s.table rd.process).lots rd.lot = some lot) : acceptLot c rd day window s =
      { s with
        engine := some (.evaluating c (.computed (evaluate rd day window lot (s.table rd.process).profile s))) } := by
  simp only [acceptLot, h]

end Accept

/-- Settles O35: each check through the outcome of `portChecks`, `dayRefusal` or the lot question on the carried
reading. -/
theorem postReadingIsAcceptedInOrder : Obligations.PostReadingIsAcceptedInOrder := by
  intro s c hg b store lot day w cal
  rw [exec_postReading hg]
  refine ⟨fun hbad => congrArg _ (acceptReading_refused (portChecks_badProcess hbad)), fun pr hp => ?_⟩
  intro ch
  have inside : w.base ≤ store → store < w.base + w.size → inWindow w store = true :=
    fun hbase hsize => (inWindow_iff ..).2 ⟨hbase, hsize⟩
  refine ⟨fun hout => ?outside, fun hbase hsize => ⟨fun hoff => ?off, fun hsus => ?suspended, fun hrun => ?running⟩⟩
  case outside =>
    exact congrArg _ (acceptReading_refused (portChecks_outside hp fun hin => hout ((inWindow_iff ..).1 hin)))
  case off => exact congrArg _ (acceptReading_refused (portChecks_off hp (inside hbase hsize) hoff))
  case suspended => exact congrArg _ (acceptReading_refused (portChecks_suspended hp (inside hbase hsize) hsus))
  case running =>
    rw [acceptReading_passed (portChecks_running hp (inside hbase hsize) hrun)]
    refine ⟨fun hfuture => congrArg _ (acceptDay_refused (dayRefusal_future hfuture)),
      fun hday hlate => congrArg _ (acceptDay_refused (dayRefusal_tooLate hday hlate)),
      fun hday htime => ⟨fun l hlast hstale => congrArg _ (acceptDay_refused (dayRefusal_stale hday htime hlast hstale)),
        fun hfresh => ⟨fun h0 => congrArg _ (acceptDay_refused (dayRefusal_noLot hday htime hfresh h0)),
          fun hne hnone => ?parked, fun record hne hlot => ?accepted⟩⟩⟩
    case parked =>
      refine ⟨_, _, rfl, congrArg _ ?_⟩
      rw [acceptDay_passed (dayRefusal_passed hday htime hfresh hne), acceptLot_parked hnone, finishHeld_eq]
      rfl
    case accepted =>
      refine ⟨evaluate (carriedReading c pr) cal.day cal.lateWindow record (s.table pr).profile s, congrArg _ ?_, rfl,
        rfl, rfl, rfl, rfl, rfl, rfl, rfl⟩
      rw [acceptDay_passed (dayRefusal_passed hday htime hfresh hne), acceptLot_computed hlot]
      rfl

end Sys2Proof.Machine

namespace Sys2Proof.Machine

/-! ## Limit class, EWMA and drift (R72 to R76) -/

theorem limitClass_within {lim : Limits} {dev : Int} (h : dev.natAbs ≤ lim.cl) : limitClass lim dev = .within :=
  if_pos h

theorem limitClass_warn {lim : Limits} {dev : Int} (hcl : lim.cl < dev.natAbs) (hal : dev.natAbs ≤ lim.al) :
    limitClass lim dev = .warn (decide (0 < dev)) := (if_neg (Nat.not_le.2 hcl)).trans (if_pos hal)

theorem limitClass_action {lim : Limits} {dev : Int} (hcl : lim.cl < dev.natAbs) (hal : lim.al < dev.natAbs) :
    limitClass lim dev = .action (decide (0 < dev)) :=
  (if_neg (Nat.not_le.2 hcl)).trans (if_neg (Nat.not_le.2 hal))

/-- The EWMA step is the nearest sixteenth of difference × w, and a tie goes away from zero (R75). -/
theorem ewmaStep_nearest (w : Nat) (x : Int) :
    2 * |16 * ewmaStep w x - x * w| ≤ 16 ∧
      (2 * |16 * ewmaStep w x - x * w| = 16 → |x * w| < |16 * ewmaStep w x|) := by
  have hproduct : x * w = if x < 0 then -((x.natAbs * w : Nat) : Int) else ((x.natAbs * w : Nat) : Int) := by
    rw [Nat.cast_mul]
    split
    · rw [Int.ofNat_natAbs_of_nonpos (by omega), Int.neg_mul, Int.neg_neg]
    · rw [Int.natAbs_of_nonneg (by omega)]
  rw [hproduct, ewmaStep]
  generalize x.natAbs * w = product
  simp only [Int.abs_eq_natAbs]
  split <;> omega

theorem newEwma_seeded (w : Nat) (kept dev : Int) : newEwma true w kept dev = dev * 16 := rfl

theorem newEwma_sub_kept (w : Nat) (kept dev : Int) :
    newEwma false w kept dev - kept = ewmaStep w (dev * 16 - kept) := add_sub_cancel_left ..

theorem driftOf_eq_pos_iff (dl : Nat) (e : Int) : driftOf dl e = .pos ↔ (dl : Int) * 16 < e := by
  unfold driftOf
  split
  · simp [*]
  · split <;> simp [*]

theorem driftOf_eq_neg_iff (dl : Nat) (e : Int) : driftOf dl e = .neg ↔ e < -((dl : Int) * 16) := by
  unfold driftOf
  split
  · simp
    omega
  · split <;> simp [*]

/-! ## The run rule (R77, R78) -/

theorem readingSign_inside {rb : Nat} {dev : Int} (h : dev.natAbs ≤ rb) : readingSign rb dev = .zero :=
  if_neg (Nat.not_lt.2 h)

theorem readingSign_outside {rb : Nat} {dev : Int} (h : rb < dev.natAbs) : readingSign rb dev = signOf dev := if_pos h

theorem signOf_of_ne_zero {x : Int} (h : x ≠ 0) : signOf x = if 0 < x then .pos else .neg := by
  rcases Int.lt_or_gt_of_ne h with hneg | hpos
  · rw [signOf, if_pos hneg, if_neg (Int.not_lt.2 hneg.le)]
  · rw [signOf, if_neg (Int.not_lt.2 hpos.le), if_neg h, if_pos hpos]

theorem newRun_zero (kept : Sgn × Nat) : newRun kept .zero = (.zero, 0) := rfl

/-- A run of the reading's sign grows, held to 15; any other begins at 1 (R78). -/
theorem newRun_signed (kept : Sgn × Nat) {sign : Sgn} (h : sign ≠ .zero) :
    newRun kept sign = (sign, if kept.1 = sign then min 15 (kept.2 + 1) else 1) := by
  cases sign with
  | zero => exact absurd rfl h
  | neg => rw [newRun, Config.maxRun]; split <;> rfl
  | pos => rw [newRun, Config.maxRun]; split <;> rfl

/-- A lot change leaves no run to go on with (R77). -/
theorem sign_keptRun_iff (changed : Bool) (pv : PvState) {sign : Sgn} (h : sign ≠ .zero) :
    (keptRun changed pv).1 = sign ↔ changed = false ∧ pv.runSign = sign := by
  cases changed
  · simp [keptRun]
  · simp [keptRun, h.symm]

theorem keptRun_changed (pv : PvState) : keptRun true pv = (.zero, 0) := rfl

theorem keptRun_unchanged (pv : PvState) : keptRun false pv = (pv.runSign, pv.runCount) := rfl

/-! ## The symptom (R80) -/

theorem upHolds_iff (cls : LimitClass) (drift : Sgn) (run : Bool) (sign : Sgn) : upHolds cls drift run sign = true ↔
    cls = .warn true ∨ cls = .action true ∨ drift = .pos ∨ (run = true ∧ sign = .pos) := by
  simp only [upHolds, Bool.or_eq_true, Bool.and_eq_true, beq_iff_eq, or_assoc]

theorem downHolds_iff (cls : LimitClass) (drift : Sgn) (run : Bool) (sign : Sgn) :
    downHolds cls drift run sign = true ↔
      cls = .warn false ∨ cls = .action false ∨ drift = .neg ∨ (run = true ∧ sign = .neg) := by
  simp only [downHolds, Bool.or_eq_true, Bool.and_eq_true, beq_iff_eq, or_assoc]

theorem symptomOf_iff (up down : Bool) :
    (symptomOf up down = .up ↔ up = true ∧ ¬ down = true) ∧ (symptomOf up down = .down ↔ ¬ up = true ∧ down = true) ∧
      (symptomOf up down = .mixed ↔ up = true ∧ down = true) ∧
      (symptomOf up down = .none ↔ ¬ up = true ∧ ¬ down = true) := by
  cases up <;> cases down <;> decide

/-! ## The working values of a plotting value (R71, R79) -/

theorem isCharted_iff (chart : Chart) (pf : ProfileValues) (g : Group) (c : Channel) :
    isCharted chart pf g c = true ↔ pf.plotted.get g = true ∧ chart.hold.getLsbD (pvNumber g c) = false := by
  simp only [isCharted, Bool.and_eq_true, Bool.not_eq_true']

section PvWork
variable {chart : Chart} {pf : ProfileValues} {g : Group} {c : Channel}

theorem pvWork_charted (h : isCharted chart pf g c = true) (changed : Bool) (dev : Int) :
    pvWork chart pf changed g c dev =
      chartedWork (pf.limits.get g) pf chart.seedPending (keptRun changed (chart.pvs.pv g c)) (chart.pvs.pv g c) dev :=
  if_pos h

theorem pvWork_held (h : ¬ isCharted chart pf g c = true) (changed : Bool) (dev : Int) :
    pvWork chart pf changed g c dev = heldWork (keptRun changed (chart.pvs.pv g c)) (chart.pvs.pv g c) dev :=
  if_neg h

theorem charted_pvWork (changed : Bool) (dev : Int) :
    (pvWork chart pf changed g c dev).charted = isCharted chart pf g c := by
  by_cases h : isCharted chart pf g c = true
  · rw [pvWork_charted h, h]
    rfl
  · rw [pvWork_held h, Bool.eq_false_of_not_eq_true h]
    rfl

end PvWork

section Compute
variable (ins : Instrument) (chart : Chart) (rd : Reading) (day window : Nat) (lot : LotRecord) (pf : Profile)

theorem pv_compute (g : Group) (c : Channel) : (compute ins chart rd day window lot pf).pvs.pv g c =
    pvWork chart pf.values (decide (rd.lot ≠ chart.currentLot)) g c
      ((compute ins chart rd day window lot pf).pvs.pv g c).deviation := by
  rw [deviation_compute]
  exact PerPv.pv_tab _ g c

theorem spread_compute (g : Group) : (compute ins chart rd day window lot pf).spread.get g =
    spreadItem (pf.values.limits.get g).sl ((compute ins chart rd day window lot pf).pvs.get g) := Groups.get_tab _ g

end Compute

/-! ## The spread item (R73) -/

theorem mem_chartedDeviations (work : Channels PvWork) (d : Int) :
    d ∈ chartedDeviations work ↔ ∃ c, (work.get c).charted = true ∧ (work.get c).deviation = d := by
  have hmem : ∀ w, w ∈ work.toList ↔ ∃ c, work.get c = w := fun w => by
    rw [channels_toList_eq_map, List.mem_map]
    exact exists_congr fun c => and_iff_right (by cases c <;> decide)
  unfold chartedDeviations
  simp only [List.mem_map, List.mem_filter, hmem]
  constructor
  · rintro ⟨_, ⟨⟨c, rfl⟩, hc⟩, hd⟩
    exact ⟨c, hc, hd⟩
  · rintro ⟨c, hc, hd⟩
    exact ⟨_, ⟨⟨c, rfl⟩, hc⟩, hd⟩

/-- The spread passes a limit exactly when the difference of two of the deviations does. -/
theorem lt_spreadValue_iff {sl : Int} (h : 0 ≤ sl) (devs : List Int) :
    sl < spreadValue devs ↔ ∃ x ∈ devs, ∃ y ∈ devs, sl < x - y := by
  cases devs with
  | nil => simp [spreadValue, h]
  | cons d rest =>
    obtain ⟨hmax, le_max⟩ := List.max?_eq_some_iff.1 (List.max?_cons' (x := d) (xs := rest))
    obtain ⟨hmin, min_le⟩ := List.min?_eq_some_iff.1 (List.min?_cons' (x := d) (xs := rest))
    refine ⟨fun hlt => ⟨_, hmax, _, hmin, hlt⟩, fun ⟨x, hx, y, hy, hlt⟩ => ?_⟩
    exact hlt.trans_le (Int.sub_le_sub (le_max x hx) (min_le y hy))

/-- Two deviations that differ are two entries of the list. -/
theorem two_le_length_of_ne {devs : List Int} {x y : Int} (hx : x ∈ devs) (hy : y ∈ devs) (hne : x ≠ y) :
    2 ≤ devs.length := by
  match devs with
  | [] => cases hx
  | [d] => exact absurd ((List.mem_singleton.1 hx).trans (List.mem_singleton.1 hy).symm) hne
  | _ :: _ :: rest => simp

theorem spreadItem_present_iff (sl : Nat) (work : Channels PvWork) :
    spreadItem sl work = .present ↔
      ∃ x ∈ chartedDeviations work, ∃ y ∈ chartedDeviations work, (sl : Int) < x - y := by
  rw [← lt_spreadValue_iff (Int.natCast_nonneg sl), spreadItem]
  simp only [ite_eq_left_iff, reduceCtorEq, imp_false, not_not, and_iff_right_iff_imp]
  intro hlt
  obtain ⟨x, hx, y, hy, hdiff⟩ := (lt_spreadValue_iff (Int.natCast_nonneg sl) _).1 hlt
  exact two_le_length_of_ne hx hy (by omega)

/-- Settles O37: the spread by the charted deviations of the group, and the working values of a plotting value by
whether it is charted. -/
theorem chartArithmetic : Obligations.ChartArithmetic := by
  refine ⟨fun ins chart rd day window lot pf g => ?spread, fun ins chart rd day window lot pf g ch => ?work⟩
  case spread =>
    intro ev
    rw [spread_compute, spreadItem_present_iff]
    simp only [mem_chartedDeviations]
    constructor
    · rintro ⟨_, ⟨x, hx, rfl⟩, _, ⟨y, hy, rfl⟩, hlt⟩
      exact ⟨x, y, hx, hy, hlt⟩
    · rintro ⟨x, y, hx, hy, hlt⟩
      exact ⟨_, ⟨x, hx, rfl⟩, _, ⟨y, hy, rfl⟩, hlt⟩
  case work =>
    intro w kept lim dev changed charted
    have hw : w = pvWork chart pf.values (decide changed) g ch dev := pv_compute ins chart rd day window lot pf g ch
    clear_value dev w
    subst hw
    have hcharted : isCharted chart pf.values g ch = true ↔ charted := isCharted_iff chart pf.values g ch
    refine ⟨by rw [charted_pvWork, hcharted], fun hc => ?charted, fun hh => ?held⟩
    case charted =>
      rw [pvWork_charted (hcharted.2 hc)]
      refine ⟨limitClass_within, limitClass_warn, limitClass_action, fun hs => ?seed, fun hs => ?step,
        driftOf_eq_pos_iff .., driftOf_eq_neg_iff .., fun hin => ?inside, fun hout => ?outside, decide_eq_true_iff,
        ?symptom⟩
      case seed =>
        show newEwma chart.seedPending _ _ _ = _
        rw [hs, newEwma_seeded]
      case step =>
        intro step unrounded
        have hstep : step = ewmaStep pf.values.weight (dev * 16 - kept.ewma) := by
          show newEwma chart.seedPending _ _ _ - _ = _
          rw [hs, newEwma_sub_kept]
        rw [hstep]
        exact ewmaStep_nearest pf.values.weight (dev * 16 - kept.ewma)
      case inside =>
        have hrun : newRun (keptRun (decide changed) kept) (readingSign lim.rb dev) = (.zero, 0) := by
          rw [readingSign_inside hin, newRun_zero]
        exact ⟨congrArg Prod.fst hrun, congrArg Prod.snd hrun⟩
      case outside =>
        intro sign
        have hsign : sign ≠ .zero := by
          unfold sign
          split <;> decide
        have hrun : newRun (keptRun (decide changed) kept) (readingSign lim.rb dev) =
            (sign, if (keptRun (decide changed) kept).1 = sign then min 15 ((keptRun (decide changed) kept).2 + 1)
              else 1) := by
          rw [readingSign_outside hout, signOf_of_ne_zero (by omega), newRun_signed _ hsign]
        have hgoesOn := sign_keptRun_iff (decide changed) kept hsign
        rw [decide_eq_false_iff_not] at hgoesOn
        refine ⟨congrArg Prod.fst hrun, fun hbreak => (congrArg Prod.snd hrun).trans (if_neg fun hsame => ?begins),
          fun hl hsame => (congrArg Prod.snd hrun).trans ((if_pos (hgoesOn.2 ⟨hl, hsame⟩)).trans ?grows)⟩
        case begins =>
          obtain ⟨hl, hsame⟩ := hgoesOn.1 hsame
          exact hbreak.elim hl (· hsame)
        case grows => rw [decide_eq_false hl, keptRun_unchanged]
      case symptom =>
        intro up down
        have hup : _ ↔ up := upHolds_iff ..
        have hdown : _ ↔ down := downHolds_iff ..
        rw [← hup, ← hdown]
        exact symptomOf_iff ..
    case held =>
      rw [pvWork_held (mt hcharted.1 hh)]
      refine ⟨rfl, rfl, rfl, rfl, fun hl => ?_, fun hl => ?_⟩
      · rw [decide_eq_true hl, keptRun_changed]
        exact ⟨rfl, rfl⟩
      · rw [decide_eq_false hl, keptRun_unchanged]
        exact ⟨rfl, rfl⟩

end Sys2Proof.Machine

namespace Sys2Proof.Machine

/-! ## CLASSIFY: raw matches and final results (R100 to R103) -/

theorem mem_allPvs (x : Group × Channel) : x ∈ allPvs := by
  rcases x with ⟨g, c⟩
  cases g <;> cases c <;> decide

theorem mem_allGroups (g : Group) : g ∈ allGroups := by cases g <;> decide

theorem expectMatches_iff (x : Expect) (v : Symptom) : expectMatches x v = true ↔
    match x with
    | .none => v = .none
    | .up => v = .up
    | .down => v = .down
    | .any => v ≠ .none := by
  cases x
  case any => exact bne_iff_ne
  all_goals exact beq_iff_eq

theorem matchesRaw_iff (e : PatternEntry) (ev : Evaluation) : matchesRaw e ev = true ↔ e.enabled = true ∧
    (∀ g c, e.care.getLsbD (pvNumber g c) = true →
      expectMatches (e.expectPv.pv g c) (ev.pvs.pv g c).symptom = true) ∧
    ∀ g, e.care.getLsbD (12 + g.number) = true → e.expectSpread.get g = ev.spread.get g := by
  simp only [matchesRaw, Bool.and_eq_true, List.all_eq_true, mem_allPvs, mem_allGroups, forall_const, Prod.forall,
    Bool.or_eq_true, Bool.not_eq_true', ← Bool.not_eq_true, ← imp_iff_not_or, beq_iff_eq, spreadNumberOf, and_assoc]

theorem finalResult_iff (e : PatternEntry) (raw latched : Bool) : finalResult e raw latched = true ↔
    e.enabled = true ∧ match e.mode with
      | .plain => raw = true
      | .confirmed => raw = true ∧ latched = true
      | .onset => raw = true ∧ latched = false
      | .cleared => latched = true ∧ raw = false := by
  refine Bool.and_eq_true_iff.trans (and_congr_right' ?_)
  cases e.mode <;> simp

/-- The engine's copy of the table is the table (R99). -/
theorem entryAt_toList (table : Vector PatternEntry 16) (i : Fin 16) : entryAt table.toList i = table[i] := by
  simp [entryAt, List.getD_eq_getElem?_getD]

theorem getLsbD_rawMatchSet (table : Vector PatternEntry 16) (ev : Evaluation) (i : Fin 16) :
    (rawMatchSet table.toList ev).getLsbD i = matchesRaw table[i] ev := by
  rw [rawMatchSet, getLsbD_bitsOf, decide_eq_true i.isLt, Bool.true_and, entryAt_toList]

theorem getLsbD_matchedSet (table : Vector PatternEntry 16) (raw latched : BitVec 16) (i : Fin 16) :
    (matchedSet table.toList raw latched).getLsbD i =
      finalResult table[i] (raw.getLsbD i) (latched.getLsbD i) := by
  rw [matchedSet, getLsbD_bitsOf, decide_eq_true i.isLt, Bool.true_and, entryAt_toList]

/-! ## The winner (R105) -/

/-- The entry numbers of a match set, in ascending order. -/
def entriesOf (matched : BitVec 16) : List Nat := (List.range 16).filter fun i => matched.getLsbD i

theorem mem_entriesOf {matched : BitVec 16} {i : Nat} : i ∈ entriesOf matched ↔ matched.getLsbD i = true := by
  refine List.mem_filter.trans (and_iff_right_of_imp fun hi => List.mem_range.2 ?_)
  exact BitVec.lt_of_getLsbD hi

/-- The winner is the first of the matched entries that has the highest severity. -/
theorem winner_eq_argmax (table : List PatternEntry) (matched : BitVec 16) : winner table matched =
    (entriesOf matched).argmax fun i => severityNumber (entryAt table i).severity := by
  refine congrArg (List.foldl · none _) (funext₂ fun best i => ?_)
  cases best <;> rfl

/-- In an ascending list a smaller entry stands no later. -/
theorem idxOf_le_of_le {l : List Nat} (hl : l.Pairwise (· < ·)) {i j : Nat} (hi : i ∈ l) (hj : j ∈ l) (h : i ≤ j) :
    l.idxOf i ≤ l.idxOf j := by
  refine Nat.le_of_not_lt fun hlt => Nat.not_lt.2 h ?_
  simpa using List.pairwise_iff_getElem.1 hl _ _ (List.idxOf_lt_length_of_mem hj) (List.idxOf_lt_length_of_mem hi) hlt

theorem winner_eq_none_iff (table : List PatternEntry) (matched : BitVec 16) :
    winner table matched = none ↔ matched = 0 := by
  rw [winner_eq_argmax, List.argmax_eq_none, List.eq_nil_iff_forall_not_mem]
  simp only [mem_entriesOf]
  constructor
  · intro h
    exact BitVec.eq_of_getLsbD_eq fun i _ => by simpa using h i
  · rintro rfl i
    simp

/-- An entry that comes first among the matched ones, by severity and then by number, is the winner. -/
theorem winner_eq_some {table : List PatternEntry} {matched : BitVec 16} {i : Nat} (hi : matched.getLsbD i = true)
    (hbest : ∀ j, matched.getLsbD j = true →
      severityNumber (entryAt table j).severity < severityNumber (entryAt table i).severity ∨
      (severityNumber (entryAt table j).severity = severityNumber (entryAt table i).severity ∧ i ≤ j)) :
    winner table matched = some i := by
  rw [winner_eq_argmax, List.argmax_eq_some_iff]
  refine ⟨mem_entriesOf.2 hi, fun j hj => ?_, fun j hj hle => ?_⟩
  · have := hbest j (mem_entriesOf.1 hj)
    omega
  · have hij : i ≤ j := by
      have := hbest j (mem_entriesOf.1 hj)
      omega
    exact idxOf_le_of_le (List.pairwise_lt_range.filter _) (mem_entriesOf.2 hi) hj hij

/-! ## The fallback conditions (R107 to R109) -/

theorem isAction_iff (w : PvWork) :
    isAction w = true ↔ w.charted = true ∧ (w.limitClass = .action true ∨ w.limitClass = .action false) := by
  simp only [isAction, Bool.and_eq_true, Bool.or_eq_true, beq_iff_eq]

theorem isDrift_iff (w : PvWork) : isDrift w = true ↔ w.charted = true ∧ w.drift ≠ .zero := by
  simp only [isDrift, Bool.and_eq_true, bne_iff_ne]

theorem isRun_iff (w : PvWork) : isRun w = true ↔ w.charted = true ∧ w.run = true := Bool.and_eq_true_iff

theorem inSpread_iff (ev : Evaluation) (g : Group) (c : Channel) :
    inSpread ev g c = true ↔ (ev.pvs.pv g c).charted = true ∧ ev.spread.get g = .present := by
  simp only [inSpread, Bool.and_eq_true, beq_iff_eq]

section Fallback
variable {ev : Evaluation} {raw : BitVec 16}

theorem somePv_iff {test : PvWork → Bool} {P : Group → Channel → Prop}
    (h : ∀ g c, test (ev.pvs.pv g c) = true ↔ P g c) : somePv ev test = true ↔ ∃ g c, P g c := by
  simp only [somePv, List.any_eq_true, mem_allPvs, true_and, Prod.exists, h]

theorem someSpread_iff :
    (allGroups.any fun g => ev.spread.get g == .present) = true ↔ ∃ g, ev.spread.get g = .present := by
  simp only [List.any_eq_true, mem_allGroups, true_and, beq_iff_eq]

theorem absent_of_not_someSpread (h : ¬ (allGroups.any fun g => ev.spread.get g == .present) = true) (g : Group) :
    ev.spread.get g = .absent := by
  cases hg : ev.spread.get g with
  | absent => rfl
  | present => exact absurd (someSpread_iff.2 ⟨g, hg⟩) h

/-- The deviations that a test picks are those of the plotting values with the property it decides. -/
theorem exists_pick {pick : Group → Channel → Bool} {P : Group → Channel → Prop}
    (h : ∀ g c, pick g c = true ↔ P g c) : ∃ _ : ∀ g c, Decidable (P g c), deviationList ev pick =
      (allPvs.filter fun x => decide (P x.1 x.2)).map
        fun x => (pvNumber x.1 x.2, (ev.pvs.pv x.1 x.2).deviation) := by
  have decP : ∀ g c, Decidable (P g c) := fun g c => decidable_of_iff _ (h g c)
  refine ⟨decP, congrArg (List.map _) (List.filter_congr fun x _ => ?_)⟩
  rw [Bool.eq_iff_iff, h, decide_eq_true_iff]

theorem fallback_action (ha : somePv ev isAction = true) :
    fallback ev raw = ⟨60, .adjust, 0, deviationList ev fun g c => isAction (ev.pvs.pv g c), raw⟩ := if_pos ha

variable (ha : ¬ somePv ev isAction = true)
include ha

theorem fallback_drift (hd : somePv ev isDrift = true) :
    fallback ev raw = ⟨61, .watch, 0, deviationList ev fun g c => isDrift (ev.pvs.pv g c), raw⟩ :=
  (if_neg ha).trans (if_pos hd)

variable (hd : ¬ somePv ev isDrift = true)
include hd

theorem fallback_run (hr : somePv ev isRun = true) :
    fallback ev raw = ⟨62, .watch, 0, deviationList ev fun g c => isRun (ev.pvs.pv g c), raw⟩ :=
  (if_neg ha).trans ((if_neg hd).trans (if_pos hr))

variable (hr : ¬ somePv ev isRun = true)
include hr

theorem fallback_spread (hs : (allGroups.any fun g => ev.spread.get g == .present) = true) :
    fallback ev raw = ⟨63, .watch, 0, deviationList ev (inSpread ev), raw⟩ :=
  (if_neg ha).trans ((if_neg hd).trans ((if_neg hr).trans (if_pos hs)))

theorem fallback_none (hs : ¬ (allGroups.any fun g => ev.spread.get g == .present) = true) :
    fallback ev raw = ⟨0, .info, 0, deviationList ev fun _ _ => false, raw⟩ :=
  (if_neg ha).trans ((if_neg hd).trans ((if_neg hr).trans (if_neg hs)))

end Fallback

/-! ## The result of classification (R82, R99) -/

theorem matched_fallback (ev : Evaluation) (raw : BitVec 16) : (fallback ev raw).matched = 0 := by
  unfold fallback
  repeat' split
  all_goals rfl

theorem rawMatch_fallback (ev : Evaluation) (raw : BitVec 16) : (fallback ev raw).rawMatch = raw := by
  unfold fallback
  repeat' split
  all_goals rfl

section Classify
variable {ev : Evaluation} {s : State}

theorem rawMatch_classifyNow : (classifyNow ev s).rawMatch = rawMatchSet s.patterns.toList ev := by
  unfold classifyNow classifyWith
  dsimp only
  split
  · rfl
  · exact rawMatch_fallback ev _

/-- The entries whose final result is true on the Pattern Table and the latched match set as they stand (R103). -/
def matchedNow (ev : Evaluation) (s : State) : BitVec 16 :=
  matchedSet s.patterns.toList (rawMatchSet s.patterns.toList ev) (s.chart ev.reading.store ev.reading.process).latched

theorem getLsbD_matchedNow (i : Fin 16) : (matchedNow ev s).getLsbD i =
    finalResult s.patterns[i] ((classifyNow ev s).rawMatch.getLsbD i)
      ((s.chart ev.reading.store ev.reading.process).latched.getLsbD i) := by
  rw [rawMatch_classifyNow]
  exact getLsbD_matchedSet ..

theorem classifyNow_won {i : Fin 16} (hi : (matchedNow ev s).getLsbD i = true)
    (hbest : ∀ j : Fin 16, (matchedNow ev s).getLsbD j = true →
      severityNumber s.patterns[j].severity < severityNumber s.patterns[i].severity ∨
      (severityNumber s.patterns[j].severity = severityNumber s.patterns[i].severity ∧ i ≤ j)) :
    classifyNow ev s = ⟨s.patterns[i].code, s.patterns[i].severity, matchedNow ev s,
      deviationList ev fun g c => s.patterns[i].care.getLsbD (pvNumber g c), rawMatchSet s.patterns.toList ev⟩ := by
  have hwinner : winner s.patterns.toList (matchedNow ev s) = some i.val := by
    refine winner_eq_some hi fun j hj => ?_
    have hji := hbest ⟨j, BitVec.lt_of_getLsbD hj⟩ hj
    rwa [← entryAt_toList, ← entryAt_toList] at hji
  unfold matchedNow at hwinner
  simp only [classifyNow, classifyWith, hwinner, entryAt_toList]
  rfl

theorem classifyNow_unmatched (h : ∀ i : Fin 16, (matchedNow ev s).getLsbD i = false) :
    classifyNow ev s = fallback ev (rawMatchSet s.patterns.toList ev) := by
  have hwinner : winner s.patterns.toList (matchedNow ev s) = none :=
    (winner_eq_none_iff ..).2 (BitVec.eq_of_getLsbD_eq fun i hi => (h ⟨i, hi⟩).trans BitVec.getLsbD_zero.symm)
  unfold matchedNow at hwinner
  simp only [classifyNow, classifyWith, hwinner]

end Classify

/-- Settles O38: the two match sets bit by bit, the winner as the first of the matched entries of the highest severity,
and the fallback by the first of its conditions that holds. -/
theorem classifyPicksTheWinner : Obligations.ClassifyPicksTheWinner := by
  intro s c ev he latched item
  refine ⟨classifyNow ev s, exec_classify he, fun i => ?raw, fun i => (matchedNow ev s).getLsbD i, fun i => ?final,
    fun i hi hbest => ?won, fun hnone => ?fallback⟩
  case raw =>
    rw [rawMatch_classifyNow, getLsbD_rawMatchSet, matchesRaw_iff]
    exact and_congr_right' (and_congr_left' (forall₃_congr fun g ch _ => expectMatches_iff ..))
  case final =>
    exact (Bool.eq_iff_iff.1 (getLsbD_matchedNow i)).trans (finalResult_iff ..)
  case won =>
    rw [classifyNow_won hi hbest]
    exact ⟨fun j => rfl, rfl, rfl, rfl⟩
  case fallback =>
    rw [classifyNow_unmatched hnone]
    refine ⟨matched_fallback .., ?_⟩
    have hA : somePv ev isAction = true ↔ _ := somePv_iff fun g ch => isAction_iff (item g ch)
    have hD : somePv ev isDrift = true ↔ _ := somePv_iff fun g ch => isDrift_iff (item g ch)
    have hR : somePv ev isRun = true ↔ _ := somePv_iff fun g ch => isRun_iff (item g ch)
    by_cases ha : somePv ev isAction = true
    · obtain ⟨decP, hdev⟩ := exists_pick (ev := ev) fun g ch => isAction_iff (item g ch)
      rw [fallback_action ha]
      exact ⟨_, decP, hdev, .inl ⟨hA.1 ha, rfl, rfl, rfl⟩⟩
    by_cases hd : somePv ev isDrift = true
    · obtain ⟨decP, hdev⟩ := exists_pick (ev := ev) fun g ch => isDrift_iff (item g ch)
      rw [fallback_drift ha hd]
      exact ⟨_, decP, hdev, .inr (.inl ⟨mt hA.2 ha, hD.1 hd, rfl, rfl, rfl⟩)⟩
    by_cases hr : somePv ev isRun = true
    · obtain ⟨decP, hdev⟩ := exists_pick (ev := ev) fun g ch => isRun_iff (item g ch)
      rw [fallback_run ha hd hr]
      exact ⟨_, decP, hdev, .inr (.inr (.inl ⟨mt hA.2 ha, mt hD.2 hd, hR.1 hr, rfl, rfl, rfl⟩))⟩
    by_cases hs : (allGroups.any fun g => ev.spread.get g == .present) = true
    · obtain ⟨decP, hdev⟩ := exists_pick (inSpread_iff ev)
      rw [fallback_spread ha hd hr hs]
      exact ⟨_, decP, hdev, .inr (.inr (.inr (.inl
        ⟨mt hA.2 ha, mt hD.2 hd, mt hR.2 hr, someSpread_iff.1 hs, rfl, rfl, rfl⟩)))⟩
    · obtain ⟨decP, hdev⟩ := exists_pick (ev := ev) fun _ _ => Bool.false_eq_true.to_iff
      rw [fallback_none ha hd hr hs]
      exact ⟨_, decP, hdev, .inr (.inr (.inr (.inr
        ⟨mt hA.2 ha, mt hD.2 hd, mt hR.2 hr, absent_of_not_someSpread hs, rfl, rfl, rfl⟩)))⟩

end Sys2Proof.Machine

namespace Sys2Proof.Machine

/-! ## The fields of a Write Pattern (R95, R96) -/

theorem isSome_expectOfNumber_iff (n : Nat) : (expectOfNumber n).isSome = true ↔ n ≤ 3 := by
  obtain h | h := le_or_gt n 3
  · interval_cases n <;> decide
  · obtain ⟨m, rfl⟩ := Nat.exists_eq_add_of_le' h
    exact iff_of_false nofun (Nat.not_le.2 h)

theorem expectNumber_of_eq_some {n : Nat} {x : Expect} (h : expectOfNumber n = some x) : expectNumber x = n := by
  unfold expectOfNumber at h
  split at h <;> cases h <;> rfl

theorem isSome_spreadOfNumber_iff (n : Nat) : (spreadOfNumber n).isSome = true ↔ n ≤ 1 := by
  obtain h | h := le_or_gt n 1
  · interval_cases n <;> decide
  · obtain ⟨m, rfl⟩ := Nat.exists_eq_add_of_le' h
    exact iff_of_false nofun (Nat.not_le.2 h)

theorem spreadNumber_of_eq_some {n : Nat} {x : Spread} (h : spreadOfNumber n = some x) : spreadNumber x = n := by
  unfold spreadOfNumber at h
  split at h <;> cases h <;> rfl

theorem isSome_persistenceOfNumber_iff (n : Nat) : (persistenceOfNumber n).isSome = true ↔ n ≤ 3 := by
  obtain h | h := le_or_gt n 3
  · interval_cases n <;> decide
  · obtain ⟨m, rfl⟩ := Nat.exists_eq_add_of_le' h
    exact iff_of_false nofun (Nat.not_le.2 h)

theorem persistenceNumber_of_eq_some {n : Nat} {x : Persistence} (h : persistenceOfNumber n = some x) :
    persistenceNumber x = n := by
  unfold persistenceOfNumber at h
  split at h <;> cases h <;> rfl

theorem severityNumber_clampedSeverity (n : Nat) : severityNumber (clampedSeverity n) = min 3 n := by
  obtain h | h := le_or_gt n 3
  · interval_cases n <;> rfl
  · obtain ⟨k, rfl⟩ := Nat.exists_eq_add_of_le' h
    exact (Nat.min_eq_left h.le).symm

/-- The sixteen expected values of a body are in their ranges (check 3 of R95). -/
theorem expectedValid_iff (b : List Octet) : expectedValid b = true ↔
    (∀ i, i < 12 → u8 b (4 + i) ≤ 3) ∧ ∀ i, i < 4 → u8 b (16 + i) ≤ 1 := by
  simp only [expectedValid, Bool.and_eq_true, List.all_eq_true, mem_allPvs, mem_allGroups, forall_const, Prod.forall,
    carriedExpectPv, carriedExpectSpread, isSome_expectOfNumber_iff, isSome_spreadOfNumber_iff]
  refine and_congr ⟨fun h i hi => ?_, fun h g c => h _ (Nat.lt_succ_of_le (pvNumber_le g c))⟩
    ⟨fun h i hi => ?_, fun h g => h _ (by cases g <;> decide)⟩
  · obtain ⟨g, c, rfl⟩ := exists_pvNumber hi
    exact h g c
  · interval_cases i
    · exact h .base
    · exact h .speed
    · exact h .contrast
    · exact h .top

section CarriedPattern
variable {o : ByteOrder} {b : List Octet} {mode : Persistence} {generation : Nat}

theorem toNat_care_carriedPattern : (carriedPattern o b mode generation).care.toNat = u16 o b 2 :=
  (BitVec.toNat_ofNat ..).trans (Nat.mod_eq_of_lt (Nat.lt_succ_of_le (u16_le o b 2)))

theorem expectPv_carriedPattern (hv : expectedValid b = true) (g : Group) (c : Channel) :
    expectNumber ((carriedPattern o b mode generation).expectPv.pv g c) = u8 b (4 + pvNumber g c) := by
  have hrange := ((expectedValid_iff b).1 hv).1 _ (Nat.lt_succ_of_le (pvNumber_le g c))
  obtain ⟨x, hx⟩ := Option.isSome_iff_exists.1 ((isSome_expectOfNumber_iff _).2 hrange)
  rw [carriedPattern, PerPv.pv_tab, carriedExpectPv, hx]
  exact expectNumber_of_eq_some hx

theorem expectSpread_carriedPattern (hv : expectedValid b = true) (g : Group) :
    spreadNumber ((carriedPattern o b mode generation).expectSpread.get g) = u8 b (16 + g.number) := by
  have hrange := ((expectedValid_iff b).1 hv).2 g.number (by cases g <;> decide)
  obtain ⟨x, hx⟩ := Option.isSome_iff_exists.1 ((isSome_spreadOfNumber_iff _).2 hrange)
  rw [carriedPattern, Groups.get_tab, carriedExpectSpread, hx]
  exact spreadNumber_of_eq_some hx

end CarriedPattern

/-- A field is listed as clamped exactly when it was outside its range (R96). -/
theorem clampedPatternFields_eq (b : List Octet) : clampedPatternFields b =
    (if u8 b 21 < 1 ∨ 59 < u8 b 21 then [0] else []) ++ (if 3 < u8 b 22 then [1] else []) := by
  have hkept : clampNat 1 59 (u8 b 21) = u8 b 21 ↔ ¬ (u8 b 21 < 1 ∨ 59 < u8 b 21) := by
    rw [clampNat_eq_max_min (by decide)]
    omega
  simp only [clampedPatternFields, hkept, ite_not]

/-! ## Write Pattern (R95, R96) -/

theorem writePatternTake_refused (o : ByteOrder) {b : List Octet} (s : State)
    (h : 15 < u8 b 0 ∨ 3 < u8 b 20 ∨ ¬ expectedValid b = true) :
    writePatternTake o b s = (.bare .badValue, s) := by
  unfold writePatternTake
  rcases h with hn | hmode | hv
  · rw [dif_neg (Nat.not_lt.2 hn)]
    rfl
  · rw [Option.not_isSome_iff_eq_none.1 (mt (isSome_persistenceOfNumber_iff _).1 (Nat.not_le.2 hmode))]
    exact ite_self _
  · simp only [if_neg hv]
    split
    · cases persistenceOfNumber (u8 b 20) <;> rfl
    · rfl

theorem writePatternTake_written (o : ByteOrder) {b : List Octet} (s : State) {n : Fin 16} {mode : Persistence}
    (hn : u8 b 0 = n.val) (hmode : persistenceOfNumber (u8 b 20) = some mode) (hv : expectedValid b = true) :
    writePatternTake o b s =
      (clampReply [.o8 n.val, .o8 ((s.patterns[n].generation + 1) % 256)] (clampedPatternFields b),
        raiseAll .table { s with
          patterns := s.patterns.set n.val (carriedPattern o b mode ((s.patterns[n].generation + 1) % 256)) }) := by
  obtain ⟨n, hlt⟩ := n
  obtain rfl : u8 b 0 = n := hn
  simp only [writePatternTake, dif_pos hlt, hmode, if_pos hv]
  rfl

/-- Settles O26: the three checks of R95, and the carried entry field by field. -/
theorem writePatternReplacesTheEntry : Obligations.WritePatternReplacesTheEntry := by
  intro s p r h o b valid
  have hvalid : expectedValid b = true ↔ valid := expectedValid_iff b
  refine ⟨fun hbad => ?refused, fun n hn hmode hv => ?written⟩
  case refused =>
    rw [← hvalid] at hbad
    exact congrArg _ (serveOwner_eq h (writePatternTake_refused o s hbad))
  case written =>
    rw [← hvalid] at hv
    obtain ⟨mode, hmode⟩ := Option.isSome_iff_exists.1 ((isSome_persistenceOfNumber_iff _).2 hmode)
    exact ⟨_, clampedPatternFields b, congrArg _ (serveOwner_eq h (writePatternTake_written o s hn hmode hv)), rfl,
      toNat_care_carriedPattern, expectPv_carriedPattern hv, expectSpread_carriedPattern hv,
      persistenceNumber_of_eq_some hmode, clampNat_eq_max_min (by decide) _, severityNumber_clampedSeverity _, rfl,
      clampedPatternFields_eq b⟩

/-! ## Read Pattern, Read Calendar and Identify (R98, R130, R168) -/

theorem patternFields_eq (n : Nat) (e : PatternEntry) : patternFields n e =
    [.o8 n, .o8 (if e.enabled then 1 else 0), .o16 e.care.toNat] ++
      (([.base, .speed, .contrast, .top] : List Group).flatMap fun g =>
        ([.r, .g, .b] : List Channel).map fun ch => Field.o8 (expectNumber (e.expectPv.pv g ch))) ++
      (([.base, .speed, .contrast, .top] : List Group).map fun g =>
        Field.o8 (spreadNumber (e.expectSpread.get g))) ++
      [.o8 (persistenceNumber e.mode), .o8 e.code, .o8 (severityNumber e.severity), .o8 e.generation] := rfl

theorem readPatternTake_refused (o : ByteOrder) {b : List Octet} (s : State) (h : 15 < u8 b 0) :
    readPatternTake o b s = (.bare .badValue, s) := dif_neg (Nat.not_lt.2 h)

theorem readPatternTake_read (o : ByteOrder) {b : List Octet} (s : State) {n : Fin 16} (hn : u8 b 0 = n.val) :
    readPatternTake o b s = (⟨.ok, patternFields n.val s.patterns[n]⟩, s) := by
  obtain ⟨n, hlt⟩ := n
  obtain rfl : u8 b 0 = n := hn
  exact dif_pos hlt

/-- Settles O27: each request is answered from the state, which its block hands back as it is. -/
theorem otherReadsChangeNothing : Obligations.OtherReadsChangeNothing := by
  intro s p r
  refine ⟨fun h => ⟨fun hbad => congrArg _ (serveOwner_eq h (readPatternTake_refused _ s hbad)), fun n hn => ?pattern⟩,
    fun h => congrArg _ (serveOwner_eq h rfl), fun h => congrArg _ (serveOwner_eq h rfl)⟩
  case pattern =>
    intro e
    rw [← patternFields_eq]
    exact congrArg _ (serveOwner_eq h (readPatternTake_read _ s hn))

end Sys2Proof.Machine

namespace Sys2Proof.Machine

/-! ## Runs by parts

A run by parts comes to the whole when each part that does not end it leaves the whole as it was, with less to do. -/

theorem exists_iterate_eq {α : Type} {f g : α → α} (rank : α → Nat)
    (h : ∀ s, g s = s ∨ f s = g s ∨ (g (f s) = g s ∧ rank (f s) < rank s)) (s : α) :
    ∃ k, Nat.iterate f k s = g s := by
  induction hn : rank s using Nat.strong_induction_on generalizing s with
  | _ n ih =>
    rcases h s with hidle | hlast | ⟨hwhole, hless⟩
    · exact ⟨0, hidle.symm⟩
    · exact ⟨1, hlast⟩
    · obtain ⟨k, hk⟩ := ih _ (hn ▸ hless) (f s) rfl
      exact ⟨k + 1, hk.trans hwhole⟩

/-! ### What is left to do -/

/-- A bound on the parts of an evaluation before its end (R89, R114). -/
def EvalStage.partsLeft : EvalStage → Nat
  | .computed _ => 5
  | .classified _ _ => 4
  | .offering _ _ offers _ _ => offers.length + 1
  | .parking _ => 1
  | .ending _ => 0

/-- A bound on the parts of a visit (R132, R133). -/
def VisitStage.partsLeft : VisitStage → Nat
  | .arrive => 13
  | .snapped _ _ _ => 12
  | .retry st => st.partsLeft + 6
  | .miss => 5
  | .overdue _ => 4
  | .owed .condition => 3
  | .owed .attendance => 2
  | .owed .held => 1

/-- A bound on the parts of the commit or the slice in flight. -/
def State.partsLeft (s : State) : Nat :=
  match s.engine with
  | some (.evaluating _ st) => st.partsLeft
  | some (.slice i st) => (16 - i) * 13 + st.partsLeft
  | _ => 0

theorem partsLeft_evaluating {s : State} {c : Caller} {st : EvalStage} (he : s.engine = some (.evaluating c st)) :
    s.partsLeft = st.partsLeft := by
  simp only [State.partsLeft, he]

theorem partsLeft_slice {s : State} {i : Nat} {st : VisitStage} (he : s.engine = some (.slice i st)) :
    s.partsLeft = (16 - i) * 13 + st.partsLeft := by
  simp only [State.partsLeft, he]

theorem length_commitOffers_le (ev : Evaluation) (res : Result) (c : Chart) : (commitOffers ev res c).length ≤ 2 := by
  unfold commitOffers
  split <;> split <;> simp

theorem commitWrite_offers {ev : Evaluation} {res : Result} {s t : State} {offers : List Offer}
    (h : commitWrite ev res s = some (offers, t)) :
    offers = commitOffers ev res (s.chart ev.reading.store ev.reading.process) := by
  unfold commitWrite at h
  dsimp only at h
  split at h <;> cases h
  rfl

theorem partsLeft_offersLeft_le (ev : Evaluation) (res : Result) (l : List Offer) (id : Nat) (owed : Bool) :
    (offersLeft ev res l id owed).partsLeft ≤ l.length + 1 := by
  cases l with
  | nil => exact Nat.zero_le _
  | cons o rest => exact Nat.le_refl _

theorem partsLeft_evalPart_lt {st : EvalStage} (hend : ∀ rep, st ≠ .ending rep) (s : State) :
    (evalPart st s).1.partsLeft < st.partsLeft := by
  cases st with
  | computed ev => exact Nat.lt_succ_self 4
  | classified ev res =>
    cases hw : commitWrite ev res s with
    | none =>
      rw [evalPart_parks hw]
      exact (by decide : 1 < 4)
    | some x =>
      obtain ⟨offers, t⟩ := x
      have hpart : evalPart (.classified ev res) s = (offersLeft ev res offers 0 false, t) := by
        simp only [evalPart, hw]
      have hleft := partsLeft_offersLeft_le ev res offers 0 false
      have hlen := length_commitOffers_le ev res (s.chart ev.reading.store ev.reading.process)
      rw [← commitWrite_offers hw] at hlen
      rw [hpart]
      show (offersLeft ev res offers 0 false).partsLeft < 4
      omega
  | offering ev res l id owed =>
    cases l with
    | nil => exact Nat.zero_lt_one
    | cons o rest => exact Nat.lt_succ_of_le (partsLeft_offersLeft_le ..)
  | parking rd => exact Nat.zero_lt_one
  | ending rep => exact absurd rfl (hend rep)

/-! ### A commit part by part (R114) -/

section Commit
variable {s : State} {c : Caller} {st : EvalStage}

theorem commitStage_at (he : s.engine = some (.evaluating c st)) (hclass : ∀ ev, st ≠ .computed ev) :
    commitStage s = finishOperation c (runEval st s).1 (runEval st s).2 := by
  cases st with
  | computed ev => exact absurd rfl (hclass ev)
  | classified ev res => simp only [commitStage, he, finishWith]
  | offering ev res l id owed => simp only [commitStage, he, finishWith]
  | parking rd => simp only [commitStage, he, finishWith]
  | ending rep => simp only [commitStage, he, finishWith]

theorem commitPart_at (he : s.engine = some (.evaluating c st)) (hclass : ∀ ev, st ≠ .computed ev)
    (hend : ∀ rep, st ≠ .ending rep) :
    commitPart s = { (evalPart st s).2 with engine := some (.evaluating c (evalPart st s).1) } :=
  Host.Outcome.next.inj (exec_commit_part he hclass hend)

theorem offersLeft_ne_computed (ev : Evaluation) (res : Result) (l : List Offer) (id : Nat) (owed : Bool)
    (ev' : Evaluation) : offersLeft ev res l id owed ≠ .computed ev' := by
  cases l <;> exact EvalStage.noConfusion

/-- COMPUTE is not gone back to (R63). -/
theorem evalPart_ne_computed (hclass : ∀ ev, st ≠ .computed ev) (ev : Evaluation) :
    (evalPart st s).1 ≠ .computed ev := by
  cases st with
  | computed ev' => exact absurd rfl (hclass ev')
  | classified ev' res =>
    unfold evalPart
    dsimp only
    split
    · exact offersLeft_ne_computed _ _ _ _ _ ev
    · exact EvalStage.noConfusion
  | offering ev' res l id owed =>
    cases l with
    | nil => exact EvalStage.noConfusion
    | cons o rest => exact offersLeft_ne_computed _ _ _ _ _ ev
  | parking rd => exact EvalStage.noConfusion
  | ending rep => exact EvalStage.noConfusion

/-- A part of a commit leaves the whole of it as it was (R63). -/
theorem commitStage_commitPart (he : s.engine = some (.evaluating c st)) (hclass : ∀ ev, st ≠ .computed ev)
    (hend : ∀ rep, st ≠ .ending rep) : commitStage (commitPart s) = commitStage s := by
  rw [commitPart_at he hclass hend, commitStage_at rfl (evalPart_ne_computed hclass), runEval_engine,
    finishOperation_set_engine, runEval_evalPart, commitStage_at he hclass]

end Commit

theorem exists_iterate_commitPart_eq (s : State) : ∃ k, Nat.iterate commitPart k s = commitStage s := by
  refine exists_iterate_eq State.partsLeft (fun s => ?_) s
  have other : (∀ c st, s.engine ≠ some (.evaluating c st)) → commitStage s = s := fun h => by
    unfold commitStage
    split
    · rfl
    · next c st _ he => exact absurd he (h c st)
    · rfl
  by_cases hev : ∃ c st, s.engine = some (.evaluating c st)
  case neg => exact .inl (other fun c st he => hev ⟨c, st, he⟩)
  obtain ⟨c, st, he⟩ := hev
  have left : (∀ ev, st ≠ .computed ev) → (∀ rep, st ≠ .ending rep) →
      commitStage (commitPart s) = commitStage s ∧ (commitPart s).partsLeft < s.partsLeft := fun hclass hend => by
    refine ⟨commitStage_commitPart he hclass hend, ?_⟩
    rw [commitPart_at he hclass hend, partsLeft_evaluating rfl, partsLeft_evaluating he]
    exact partsLeft_evalPart_lt hend s
  cases st with
  | computed ev => exact .inl (by simp only [commitStage, he])
  | ending rep =>
    refine .inr (.inl ?_)
    rw [commitStage_at he fun _ => EvalStage.noConfusion]
    simp only [commitPart, he, runEval]
  | classified ev res =>
    exact .inr (.inr (left (fun _ => EvalStage.noConfusion) fun _ => EvalStage.noConfusion))
  | offering ev res l id owed =>
    exact .inr (.inr (left (fun _ => EvalStage.noConfusion) fun _ => EvalStage.noConfusion))
  | parking rd =>
    exact .inr (.inr (left (fun _ => EvalStage.noConfusion) fun _ => EvalStage.noConfusion))

end Sys2Proof.Machine

namespace Sys2Proof.Machine

/-! ### A slice part by part (R133) -/

section Slice
variable {s t : State} {i : Nat} {st st' : VisitStage}

/-- A visit that is not over leaves the slice at the same chart. -/
theorem slicePart_stays (he : s.engine = some (.slice i st)) (hi : i < 16)
    (hv : visitPart (sliceStore s i) (sliceProcess i) st s = (some st', t)) :
    slicePart s = { t with engine := some (.slice i st') } := by
  have hcharts : i < sliceCharts := hi
  simp only [slicePart, he, if_pos hcharts, hv]

/-- A visit that is over brings the slice to the next chart. -/
theorem slicePart_moves (he : s.engine = some (.slice i st)) (hi : i < 16)
    (hv : visitPart (sliceStore s i) (sliceProcess i) st s = (none, t)) :
    slicePart s = { t with engine := some (.slice (i + 1) .arrive) } := by
  have hcharts : i < sliceCharts := hi
  simp only [slicePart, he, if_pos hcharts, hv]

theorem slicePart_past (he : s.engine = some (.slice i st)) (hi : ¬ i < 16) : slicePart s = endSlice s := by
  have hcharts : ¬ i < sliceCharts := hi
  simp only [slicePart, he, if_neg hcharts]

theorem sliceStage_at (he : s.engine = some (.slice i st)) (hi : i < 16) : sliceStage s =
    endSlice (visitCharts (i + 1) (15 - i) (finishVisit (sliceStore s i) (sliceProcess i) st s)) := by
  have hcharts : i < sliceCharts := hi
  have hcount : sliceCharts - (i + 1) = 15 - i := show 16 - (i + 1) = 15 - i by omega
  simp only [sliceStage, he, if_pos hcharts, hcount]

theorem sliceStage_past (he : s.engine = some (.slice i st)) (hi : ¬ i < 16) : sliceStage s = endSlice s := by
  have hcharts : ¬ i < sliceCharts := hi
  simp only [sliceStage, he, if_neg hcharts]

theorem visitCharts_succ (first count : Nat) (s : State) : visitCharts first (count + 1) s =
    visitCharts (first + 1) count (visitChart (sliceStore s first) (sliceProcess first) s) := by
  rw [visitCharts, List.range'_succ]
  rfl

theorem visitCharts_engine (first count : Nat) (s : State) (e : Option Operation) :
    visitCharts first count { s with engine := e } = { visitCharts first count s with engine := e } := by
  induction count generalizing first s with
  | zero => rfl
  | succ count ih =>
    rw [visitCharts_succ, visitCharts_succ, visitChart_engine]
    exact ih ..

theorem endSlice_set_engine (s : State) (e : Option Operation) : endSlice { s with engine := e } = endSlice s := rfl

/-- From its arrival at a chart a slice visits that chart and those after it. -/
theorem sliceStage_arrive (t : State) (i : Nat) : sliceStage { t with engine := some (.slice i .arrive) } =
    endSlice (visitCharts i (16 - i) t) := by
  by_cases hi : i < 16
  · rw [sliceStage_at rfl hi, show finishVisit (sliceStore { t with engine := some (.slice i .arrive) } i)
      (sliceProcess i) .arrive { t with engine := some (.slice i .arrive) } = _ from visitChart_engine ..,
      visitCharts_engine, endSlice_set_engine, show 16 - i = 15 - i + 1 by omega, visitCharts_succ]
    rfl
  · rw [sliceStage_past rfl hi, endSlice_set_engine, show 16 - i = 0 by omega]
    rfl

/-- A part of a visit leaves the whole of its slice as it was (R132). -/
theorem sliceStage_slicePart (he : s.engine = some (.slice i st)) (hi : i < 16) :
    sliceStage (slicePart s) = sliceStage s := by
  have hvisit := finishVisit_visitPart (sliceStore s i) (sliceProcess i) st s
  have hcal := (chartWork_visitPart (sliceStore s i) (sliceProcess i) st s).calendar
  rw [sliceStage_at he hi, ← hvisit]
  rcases hv : visitPart (sliceStore s i) (sliceProcess i) st s with ⟨_ | st', t⟩
  · rw [slicePart_moves he hi hv, sliceStage_arrive, show 16 - (i + 1) = 15 - i by omega]
  · rw [hv] at hcal
    have hstore : sliceStore { t with engine := some (.slice i st') } i = sliceStore s i :=
      congrArg (fun cal => Calendar.nextStore cal + i / 2) hcal
    rw [slicePart_stays he hi hv, sliceStage_at rfl hi, hstore, finishVisit_engine, visitCharts_engine,
      endSlice_set_engine]

end Slice

theorem VisitStage.partsLeft_pos (st : VisitStage) : 0 < st.partsLeft := by
  cases st with
  | owed cls => cases cls <;> decide
  | _ => exact Nat.succ_pos _

theorem partsLeft_retryPart_lt {st st' : EvalStage} {s t : State} (h : retryPart st s = (some st', t)) :
    st'.partsLeft < st.partsLeft := by
  have hend : ∀ rep, st ≠ .ending rep := by
    rintro rep rfl
    cases h
  have hst : (evalPart st s).1 = st' := (retryPart_eq st s).2 st' (congrArg Prod.fst h)
  exact hst ▸ partsLeft_evalPart_lt hend s

theorem partsLeft_visitPart_lt {n : Nat} {pr : Process} {st st' : VisitStage} {s t : State}
    (h : visitPart n pr st s = (some st', t)) : st'.partsLeft < st.partsLeft := by
  cases st with
  | arrive =>
    unfold visitPart at h
    dsimp only at h
    split at h
    · cases h
    · split at h
      · cases h
        exact (by decide : 5 < 13)
      · split at h <;> cases h
        · exact (by decide : 5 < 13)
        · exact (by decide : 12 < 13)
  | snapped rd lot profile =>
    unfold visitPart at h
    dsimp only at h
    split at h <;> cases h
    · exact (by decide : 5 < 12)
    · exact (by decide : 11 < 12)
  | retry st =>
    unfold visitPart at h
    dsimp only at h
    split at h <;> cases h
    · next hr => exact Nat.add_lt_add_right (partsLeft_retryPart_lt hr) 6
    · exact Nat.lt_add_left _ (by decide)
  | miss =>
    unfold visitPart at h
    dsimp only at h
    split at h <;> cases h
    · exact (by decide : 4 < 5)
    · exact (by decide : 3 < 5)
  | overdue missed =>
    cases h
    exact (by decide : 3 < 4)
  | owed cls => cases cls <;> cases h <;> decide

theorem exists_iterate_slicePart_eq (s : State) : ∃ k, Nat.iterate slicePart k s = sliceStage s := by
  refine exists_iterate_eq State.partsLeft (fun s => ?_) s
  by_cases hsl : ∃ i st, s.engine = some (.slice i st)
  case neg =>
    refine .inl ?_
    unfold sliceStage
    split
    · next i st he => exact absurd ⟨i, st, he⟩ hsl
    · rfl
  obtain ⟨i, st, he⟩ := hsl
  by_cases hi : i < 16
  case neg => exact .inr (.inl ((slicePart_past he hi).trans (sliceStage_past he hi).symm))
  refine .inr (.inr ⟨sliceStage_slicePart he hi, ?_⟩)
  rcases hv : visitPart (sliceStore s i) (sliceProcess i) st s with ⟨_ | st', t⟩
  · have hpos := st.partsLeft_pos
    rw [slicePart_moves he hi hv, partsLeft_slice rfl, partsLeft_slice he]
    show (16 - (i + 1)) * 13 + 13 < _
    omega
  · have hless := partsLeft_visitPart_lt hv
    rw [slicePart_stays he hi hv, partsLeft_slice rfl, partsLeft_slice he]
    omega

end Sys2Proof.Machine

namespace Sys2Proof.Machine

/-! ## The points of a visit (R132 to R137) -/

section Points
variable {n : Nat} {pr : Process} {s : State}

theorem visitPart_passed (h : (s.chart n pr).state = .off ∨ (s.chart n pr).state = .suspended) :
    visitPart n pr .arrive s = (none, s) := if_pos h

theorem not_off_or_suspended (h : (s.chart n pr).state = .active ∨ (s.chart n pr).state = .overdue) :
    ¬ ((s.chart n pr).state = .off ∨ (s.chart n pr).state = .suspended) := by
  rcases h with h | h <;> rw [h] <;> decide

/-- With nothing parked, or its lot not active, a visit goes on to its miss count (R134). -/
theorem visitPart_noRetry (h : (s.chart n pr).state = .active ∨ (s.chart n pr).state = .overdue)
    (hlot : ∀ pk, (s.chart n pr).parked = some pk → findLot (s.table pr).lots pk.lot = none) :
    visitPart n pr .arrive s = (some .miss, s) := by
  unfold visitPart
  dsimp only
  rw [if_neg (not_off_or_suspended h)]
  cases hp : (s.chart n pr).parked with
  | none => rfl
  | some pk => simp only [hlot pk hp]

theorem visitPart_snapped {pk : Parked} {lot : LotRecord}
    (h : (s.chart n pr).state = .active ∨ (s.chart n pr).state = .overdue) (hp : (s.chart n pr).parked = some pk)
    (hlot : findLot (s.table pr).lots pk.lot = some lot) : visitPart n pr .arrive s =
      (some (.snapped ⟨n, pr, pk.lot, pk.day, pk.codes⟩ lot (s.table pr).profile), s) := by
  unfold visitPart
  dsimp only
  rw [if_neg (not_off_or_suspended h)]
  simp only [hp, hlot]
  rfl

theorem visitPart_late {rd : Reading} {lot : LotRecord} {profile : Profile}
    (h : rd.day + s.calendar.lateWindow < s.calendar.day) : visitPart n pr (.snapped rd lot profile) s =
      (some .miss, s.modChart rd.store rd.process fun c =>
        { c with parked := none, staleCount := satInc16 c.staleCount }) := by
  simp only [visitPart, recheck_late h]

theorem visitPart_inTime {rd : Reading} {lot : LotRecord} {profile : Profile}
    (h : s.calendar.day ≤ rd.day + s.calendar.lateWindow) : visitPart n pr (.snapped rd lot profile) s =
      (some (.retry (.computed (evaluate rd s.calendar.day s.calendar.lateWindow lot profile s))), s) := by
  simp only [visitPart, recheck_inTime h]

theorem visitPart_retry_on {st st' : EvalStage} {t : State} (h : evalPart st s = (st', t))
    (hend : ∀ rep, st' ≠ .ending rep) : visitPart n pr (.retry st) s = (some (.retry st'), t) := by
  cases st' with
  | ending rep => exact absurd rfl (hend rep)
  | _ => simp only [visitPart, retryPart, h]

theorem visitPart_retry_over {st : EvalStage} {rep : Reply} {t : State} (h : evalPart st s = (.ending rep, t)) :
    visitPart n pr (.retry st) s = (some .miss, t) := by
  simp only [visitPart, retryPart, h]

/-! ### The miss count and the limit question (R135, R136) -/

theorem countsMiss_iff (d : Nat) (c : Chart) :
    countsMiss d c = true ↔ c.enrolDay ≤ d ∧ ∀ l, c.lastDay = some l → l < d := by
  unfold countsMiss
  cases c.lastDay <;> simp

theorem countMiss_uncounted (h : ¬ countsMiss s.calendar.closingDay (s.chart n pr) = true) :
    countMiss n pr s = (none, s) := if_neg h

theorem missedChart_eq (limit : Nat) (c : Chart) : missedChart limit c =
    { c with
      missed := missedPlus c
      state := if c.state = .active ∧ limit ≤ missedPlus c then .overdue else c.state } := rfl

/-- A counted miss that makes a chart OVERDUE, or finds it so. -/
theorem countMiss_overdue (h : countsMiss s.calendar.closingDay (s.chart n pr) = true)
    (hs : ((s.chart n pr).state = .active ∧ (s.table pr).profile.values.overdueLimit ≤ missedPlus (s.chart n pr)) ∨
      (s.chart n pr).state = .overdue) : countMiss n pr s = (some (missedPlus (s.chart n pr)),
        s.setChart n pr { s.chart n pr with missed := missedPlus (s.chart n pr), state := .overdue }) := by
  have hchart : missedChart (s.table pr).profile.values.overdueLimit (s.chart n pr) =
      { s.chart n pr with missed := missedPlus (s.chart n pr), state := .overdue } := by
    rw [missedChart_eq]
    rcases hs with hs | hs
    · rw [if_pos hs]
    · rw [hs, ite_self]
  simp only [countMiss, if_pos h, hchart, if_true]

/-- A counted miss below the limit. -/
theorem countMiss_active (h : countsMiss s.calendar.closingDay (s.chart n pr) = true)
    (hs : (s.chart n pr).state = .active)
    (hlimit : missedPlus (s.chart n pr) < (s.table pr).profile.values.overdueLimit) : countMiss n pr s =
      (none, s.setChart n pr { s.chart n pr with missed := missedPlus (s.chart n pr) }) := by
  have hchart : missedChart (s.table pr).profile.values.overdueLimit (s.chart n pr) =
      { s.chart n pr with missed := missedPlus (s.chart n pr) } := by
    rw [missedChart_eq, if_neg fun hh => Nat.not_le.2 hlimit hh.2]
  simp only [countMiss, if_pos h, hchart, hs, reduceCtorEq, if_false]

theorem visitPart_counted {missed : Nat} {t : State} (h : countMiss n pr s = (some missed, t)) :
    visitPart n pr .miss s = (some (.overdue missed), t) := by
  simp only [visitPart, h]

theorem visitPart_uncounted {t : State} (h : countMiss n pr s = (none, t)) :
    visitPart n pr .miss s = (some (.owed .condition), t) := by
  simp only [visitPart, h]

end Points

/-- The end of a slice, past its last chart (R139, R148). -/
theorem endSlice_eq (s : State) : endSlice s = arbitrate
    (if s.calendar.nextStore + 8 < 1024 then
      { s with
        engine := none, arbiter := ⟨.port .a, none, 0⟩
        calendar := { s.calendar with nextStore := s.calendar.nextStore + 8 } }
    else raiseAll .sweep
      { s with
        engine := none, arbiter := ⟨.port .a, none, 0⟩
        calendar := { s.calendar with sweep := .idle, nextStore := 0 } }) := rfl

/-- Settles O51: a part leaves the whole as it was with less left to do; the points of a slice are those of
`visitPart`, and past the last chart is the slice's end. -/
theorem partsComeToTheWhole : Obligations.PartsComeToTheWhole := by
  refine ⟨fun t => ⟨rfl, rfl, rfl, rfl⟩, fun s _ _ _ _ => exists_iterate_commitPart_eq s,
    fun s _ _ _ => exists_iterate_slicePart_eq s, fun s ev => rfl,
    fun s c st he hclass hend => exec_commit_part he hclass hend, fun s i => ?_⟩
  intro n pr ch profile cal at_ part
  refine ⟨fun hi => ?_, fun he hlast => congrArg _ ?past⟩
  case past => exact (slicePart_past he (by omega)).trans (endSlice_eq s)
  have stays : ∀ {st st' t}, at_ st → visitPart n pr st s = (some st', t) →
      part = .next { t with engine := some (.slice i st') } := fun he hv => congrArg _ (slicePart_stays he hi hv)
  have moves : ∀ {st t}, at_ st → visitPart n pr st s = (none, t) →
      part = .next { t with engine := some (.slice (i + 1) .arrive) } :=
    fun he hv => congrArg _ (slicePart_moves he hi hv)
  refine ⟨fun he hs => moves he (visitPart_passed hs), fun he hs hlot => stays he (visitPart_noRetry hs hlot),
    fun pk lot he hs hp hlot => stays he (visitPart_snapped hs hp hlot),
    fun rd lot pf he => ⟨fun h => stays he (visitPart_inTime h), fun h => stays he (visitPart_late h)⟩,
    fun st st' t he hpart => ⟨fun hend => stays he (visitPart_retry_on hpart hend), fun rep hend => stays he
      (visitPart_retry_over (hend ▸ hpart))⟩,
    ?miss, fun missed he => stays he rfl, fun he => stays he rfl, fun he => stays he rfl, fun he => moves he rfl⟩
  case miss =>
    intro missed counted he
    have hcounted : countsMiss s.calendar.closingDay ch = true ↔ counted := countsMiss_iff _ _
    exact ⟨fun hc hs => stays he (visitPart_counted (countMiss_overdue (hcounted.2 hc) hs)),
      fun hc hs hlimit => stays he (visitPart_uncounted (countMiss_active (hcounted.2 hc) hs hlimit)),
      fun hc => stays he (visitPart_uncounted (countMiss_uncounted fun h => hc (hcounted.1 h)))⟩

end Sys2Proof.Machine

namespace Sys2Proof.Machine

/-! ## List Notices (R121, R122) -/

theorem entriesAfter_held {id : Nat} {before after : List Notice} {e : Notice} (he : e.id = id)
    (hbefore : ∀ x ∈ before, x.id ≠ id) : entriesAfter id (before ++ e :: after) = some after := by
  induction before with
  | nil => exact if_pos he
  | cons x rest ih =>
    obtain ⟨hx, hrest⟩ := List.forall_mem_cons.1 hbefore
    exact (if_neg hx).trans (ih hrest)

theorem entriesAfter_notHeld {id : Nat} {entries : List Notice} (h : ∀ e ∈ entries, e.id ≠ id) :
    entriesAfter id entries = none := by
  induction entries with
  | nil => rfl
  | cons x rest ih =>
    obtain ⟨hx, hrest⟩ := List.forall_mem_cons.1 h
    exact (if_neg hx).trans (ih hrest)

theorem listStart_head (entries : List Notice) : listStart 0 entries = (entries, false) := rfl

theorem listStart_restarted {id : Nat} {entries : List Notice} (hid : id ≠ 0) (h : ∀ e ∈ entries, e.id ≠ id) :
    listStart id entries = (entries, true) := by
  rw [listStart, if_neg hid, entriesAfter_notHeld h]

theorem listStart_after {id : Nat} {before after : List Notice} {e : Notice} (hid : id ≠ 0) (he : e.id = id)
    (hbefore : ∀ x ∈ before, x.id ≠ id) : listStart id (before ++ e :: after) = (after, false) := by
  rw [listStart, if_neg hid, entriesAfter_held he hbefore]

theorem listNoticesTake_refused (o : ByteOrder) {b : List Octet} (s : State) (h : u8 b 2 < 1 ∨ 8 < u8 b 2) :
    listNoticesTake o b s = (.bare .badValue, s) := if_neg (by omega)

/-- What a list shows from its start on: bit 0 marks that entries follow, bit 1 that the list has restarted. -/
theorem listNoticesTake_listed (o : ByteOrder) {b : List Octet} {s : State} {entries : List Notice} {restarted : Bool}
    (h1 : 1 ≤ u8 b 2) (h8 : u8 b 2 ≤ 8) (hstart : listStart (u16 o b 0) s.notices.entries = (entries, restarted)) :
    listNoticesTake o b s =
      (⟨.ok, [.o8 s.notices.entries.length,
          .o8 ((if u8 b 2 < entries.length then 1 else 0) + if restarted then 2 else 0),
          .o8 (entries.take (u8 b 2)).length] ++ (entries.take (u8 b 2)).flatMap noticeFields⟩, s) := by
  simp only [listNoticesTake, if_pos (And.intro h1 h8), hstart, bitAt, decide_eq_true_eq, pow_zero, pow_one]

/-- Settles O29: the list starts at the head, after the entry of the id, or again at the head, and the block hands the
state back as it is. -/
theorem listNoticesShowsTheQueue : Obligations.ListNoticesShowsTheQueue := by
  refine ⟨fun e => rfl, fun s p r h => ?_⟩
  intro id most reply
  refine ⟨fun hbad => congrArg _ (serveOwner_eq h (listNoticesTake_refused _ s hbad)), fun h1 h8 => ?_⟩
  have listed : ∀ entries restarted, listStart id s.notices.entries = (entries, restarted) →
      exec (.listNotices p) s = .next (s.answered p r (reply entries (if restarted then 2 else 0))) :=
    fun _ _ hstart => congrArg _ (serveOwner_eq h (listNoticesTake_listed _ h1 h8 hstart))
  refine ⟨fun h0 => listed _ false ?head, fun hid hnone => listed _ true (listStart_restarted hid hnone),
    fun before e after hsplit he hid hbefore => listed _ false ?after⟩
  case head => rw [h0, listStart_head]
  case after => rw [hsplit, listStart_after hid he hbefore]

/-! ## Acknowledge Notice (R123) -/

theorem find_id_eq_none {id : Nat} {entries : List Notice} (h : ∀ e ∈ entries, e.id ≠ id) :
    (entries.find? fun e => e.id == id) = none :=
  List.find?_eq_none.2 fun e he heq => h e he (beq_iff_eq.1 heq)

theorem find_id_eq_some {id : Nat} {before after : List Notice} {e : Notice} (he : e.id = id)
    (hbefore : ∀ x ∈ before, x.id ≠ id) : ((before ++ e :: after).find? fun x => x.id == id) = some e :=
  List.find?_eq_some_iff_append.2 ⟨beq_iff_eq.2 he, before, after, rfl, fun x hx => by simpa using hbefore x hx⟩

/-- The gap of the one entry of an id closes (R112). -/
theorem filter_id_ne {id : Nat} {before after : List Notice} {e : Notice} (he : e.id = id)
    (hother : ∀ x ∈ before ++ after, x.id ≠ id) :
    ((before ++ e :: after).filter fun x => x.id != id) = before ++ after := by
  have hkept : ((before ++ after).filter fun x => x.id != id) = before ++ after :=
    List.filter_eq_self.2 fun x hx => bne_iff_ne.2 (hother x hx)
  rw [List.filter_append, List.filter_cons_of_neg (by simp [he]), ← List.filter_append, hkept]

section Acknowledge
variable {o : ByteOrder} {b : List Octet} {s : State}

theorem acknowledgeTake_badValue (h : u8 b 2 = 0) : acknowledgeTake o b s = (.bare .badValue, s) := if_pos h

theorem acknowledgeTake_notFound (hseen : u8 b 2 ≠ 0) (h : ∀ e ∈ s.notices.entries, e.id ≠ u16 o b 0) :
    acknowledgeTake o b s = (.bare .notFound, s) := by
  simp only [acknowledgeTake, if_neg hseen, find_id_eq_none h]
  rfl

variable {before after : List Notice} {e : Notice} (hseen : u8 b 2 ≠ 0)
  (hsplit : s.notices.entries = before ++ e :: after) (he : e.id = u16 o b 0)
  (hother : ∀ x ∈ before ++ after, x.id ≠ u16 o b 0)
include hseen hsplit he hother

theorem acknowledgeTake_changed (h : e.occurrences ≠ u8 b 2) : acknowledgeTake o b s =
    (⟨.changed, [.o8 e.occurrences, .o16 e.lastDay]⟩, s) := by
  have hfind := find_id_eq_some (after := after) he fun x hx => hother x (List.mem_append_left after hx)
  simp only [acknowledgeTake, if_neg hseen, hsplit, hfind, if_neg h]

theorem acknowledgeTake_removed (h : e.occurrences = u8 b 2) : acknowledgeTake o b s =
    (⟨.ok, [.o16 (u16 o b 0)]⟩, { s with notices := { s.notices with entries := before ++ after } }) := by
  have hfind := find_id_eq_some (after := after) he fun x hx => hother x (List.mem_append_left after hx)
  simp only [acknowledgeTake, if_neg hseen, hsplit, hfind, if_pos h, filter_id_ne he hother]

end Acknowledge

/-- Settles O30: the two refusals, and the entry of the id by whether its occurrences are those seen. -/
theorem acknowledgeRemovesTheEntry : Obligations.AcknowledgeRemovesTheEntry := by
  intro s p r h id seen
  exact ⟨fun h0 => congrArg _ (serveOwner_eq h (acknowledgeTake_badValue h0)),
    fun hseen hnone => congrArg _ (serveOwner_eq h (acknowledgeTake_notFound hseen hnone)),
    fun before e after hseen hsplit he hother =>
      ⟨fun hne => congrArg _ (serveOwner_eq h (acknowledgeTake_changed hseen hsplit he hother hne)),
        fun heq => congrArg _ (serveOwner_eq h (acknowledgeTake_removed hseen hsplit he hother heq))⟩⟩

end Sys2Proof.Machine

namespace Sys2Proof.Machine

/-! ## The form of the Notice Queue (R111 to R114)

Offers, removals and a device reset alone change the queue; all other work hands it on as it is. -/

/-- The queue's form is kept from one state to another. -/
structure NoticesKept (s t : State) : Prop where
  form : NoticesOk s → NoticesOk t

theorem noticesOk_of_notices {s t : State} (h : t.notices = s.notices) (hs : NoticesOk s) : NoticesOk t := by
  unfold NoticesOk
  rw [h]
  exact hs

namespace NoticesKept
variable {s t u : State}

theorem refl (s : State) : NoticesKept s s := ⟨id⟩

theorem trans (h : NoticesKept s t) (k : NoticesKept t u) : NoticesKept s u := ⟨k.form ∘ h.form⟩

theorem of_notices (h : t.notices = s.notices) : NoticesKept s t := ⟨noticesOk_of_notices h⟩

/-- Work that hands the queue on as it is, after work on it. -/
theorem then_same (h : NoticesKept s t) (hn : u.notices = t.notices) : NoticesKept s u := h.trans (of_notices hn)

theorem of_quiet (q : Quiet s t) : NoticesKept s t := of_notices q.notices

/-- The end of an operation after work on the queue (R149). -/
theorem finished (c : Caller) (rep : Reply) (h : NoticesKept s t) : NoticesKept s (finishOperation c rep t) :=
  h.then_same (notices_finishOperation c rep t)

theorem replied (c : Caller) (rep : Reply) (s : State) : NoticesKept s (finishOperation c rep s) :=
  (refl s).finished c rep

end NoticesKept

/-! ### What changes the queue -/

/-- A removal closes the gaps that it makes, and moves no counter (R112, R126). -/
theorem noticesKept_filter (keep : Notice → Bool) (s : State) :
    NoticesKept s { s with notices := { s.notices with entries := s.notices.entries.filter keep } } := by
  refine ⟨fun ⟨hlen, hnext, hids, hsubjects, hentries⟩ => ?_⟩
  have hsub : (s.notices.entries.filter keep).Sublist s.notices.entries := List.filter_sublist
  exact ⟨hsub.length_le.trans hlen, hnext, hids.sublist (hsub.map _), hsubjects.sublist (hsub.map _),
    fun e he => hentries e (hsub.subset he)⟩

/-- A merge keeps the entry's id, chart and class, and its occurrences in 1..255 (R115). -/
theorem noticesKept_merge (o : Offer) (s : State) : NoticesKept s { s with notices := { s.notices with
    entries := s.notices.entries.map fun x => if sameSubject o x then mergeEntry o x else x } } := by
  refine ⟨fun ⟨hlen, hnext, hids, hsubjects, hentries⟩ => ?_⟩
  have hid : ∀ x, (if sameSubject o x then mergeEntry o x else x).id = x.id := fun x => by split <;> rfl
  have hsubject : ∀ x, ((if sameSubject o x then mergeEntry o x else x).store,
      (if sameSubject o x then mergeEntry o x else x).process,
      (if sameSubject o x then mergeEntry o x else x).cls) = (x.store, x.process, x.cls) :=
    fun x => by split <;> rfl
  refine ⟨?length, hnext, ?ids, ?subjects, fun e he => ?entry⟩
  case length => rwa [List.length_map]
  case ids =>
    rw [List.map_map]
    exact (List.map_congr_left fun x _ => hid x) ▸ hids
  case subjects =>
    rw [List.map_map]
    exact (List.map_congr_left fun x _ => hsubject x) ▸ hsubjects
  case entry =>
    obtain ⟨x, hx, rfl⟩ := List.mem_map.1 he
    obtain ⟨hidrange, hocc1, hocc⟩ := hentries x hx
    refine ⟨(hid x).symm ▸ hidrange, ?_⟩
    split
    · rw [mergeEntry_eq hocc]
      exact ⟨Nat.le_min.2 ⟨by decide, Nat.succ_pos _⟩, Nat.min_le_left _ _⟩
    · exact ⟨hocc1, hocc⟩

/-- An insertion brings a free id and a chart and class that no entry has (R113, R117). -/
theorem noticesKept_insert {o : Offer} {s : State} (hnone : ∀ e ∈ s.notices.entries, ¬ sameSubject o e = true)
    (hroom : s.notices.entries.length < Config.noticeEntries) : NoticesKept s { s with notices :=
      ⟨s.notices.entries ++ [newEntry (idForInsertion s.notices) o], nextId (idForInsertion s.notices)⟩ } := by
  refine ⟨fun ⟨_, hnext, hids, hsubjects, hentries⟩ => ?_⟩
  obtain ⟨k, hid, hfree, -⟩ := idForInsertion_spec hnext hroom
  have hrange : 1 ≤ idForInsertion s.notices ∧ idForInsertion s.notices ≤ 65535 := by omega
  refine ⟨?length, ?counter, ?ids, ?subjects, fun e he => ?entry⟩
  case length =>
    rw [List.length_append]
    exact hroom
  case counter =>
    show 1 ≤ nextId (idForInsertion s.notices) ∧ nextId (idForInsertion s.notices) ≤ 65535
    rw [nextId_eq hrange.2]
    omega
  case ids =>
    rw [List.map_append, List.map_singleton, List.nodup_append_comm]
    refine List.nodup_cons.2 ⟨fun hmem => ?_, hids⟩
    obtain ⟨e, he, heq⟩ := List.mem_map.1 hmem
    exact hfree e he heq
  case subjects =>
    rw [List.map_append, List.map_singleton, List.nodup_append_comm]
    refine List.nodup_cons.2 ⟨fun hmem => ?_, hsubjects⟩
    obtain ⟨e, he, heq⟩ := List.mem_map.1 hmem
    obtain ⟨hstore, hrest⟩ := Prod.mk.inj heq
    obtain ⟨hprocess, hcls⟩ := Prod.mk.inj hrest
    exact hnone e he ((sameSubject_iff o e).2 ⟨hstore, hprocess, hcls⟩)
  case entry =>
    rcases List.mem_append.1 he with he | he
    · exact hentries e he
    · obtain rfl := List.mem_singleton.1 he
      exact ⟨hrange, Nat.le_refl 1, (by decide : 1 ≤ 255)⟩

theorem noticesKept_takeOffer (o : Offer) (s : State) : NoticesKept s (takeOffer o s).2 := by
  unfold takeOffer
  dsimp only
  split
  · exact (noticesKept_merge o s).then_same rfl
  · next hfind =>
    split
    · next hroom =>
      have hkept := noticesKept_insert (List.find?_eq_none.1 hfind) hroom
      split <;> exact hkept.then_same rfl
    · exact .of_notices rfl

theorem noticesKept_offerOrOwe (o : Offer) (s : State) : NoticesKept s (offerOrOwe o s).2 := by
  by_cases h : (takeOffer o s).1 = .refused
  · rw [offerOrOwe_refused h]
    exact (noticesKept_takeOffer o s).then_same rfl
  · rw [offerOrOwe_taken h]
    exact noticesKept_takeOffer o s

/-! ### Readings -/

theorem notices_moveLot {pr : Process} {old new : Nat} {s t : State} (h : moveLot pr old new s = some t) :
    t.notices = s.notices := by
  unfold moveLot at h
  split at h
  · cases h
    split
    · rfl
    · rw [countUp, notices_setTable, countDown_frame]
  · cases h

theorem notices_commitWrite {ev : Evaluation} {res : Result} {s t : State} {offers : List Offer}
    (h : commitWrite ev res s = some (offers, t)) : t.notices = s.notices := by
  unfold commitWrite at h
  dsimp only at h
  split at h
  · next hmove =>
    cases h
    exact (notices_setChart ..).trans (notices_moveLot hmove)
  · cases h

theorem noticesKept_finishHeld (rd : Reading) (s : State) : NoticesKept s (finishHeld rd s).2 :=
  noticesKept_offerOrOwe _ s

theorem noticesKept_evalPart (st : EvalStage) (s : State) : NoticesKept s (evalPart st s).2 := by
  cases st with
  | computed ev => exact .refl s
  | classified ev res =>
    unfold evalPart
    dsimp only
    split
    · next hw => exact .of_notices (notices_commitWrite hw)
    · exact .of_notices rfl
  | offering ev res l id owed =>
    cases l with
    | nil => exact .refl s
    | cons o rest => exact noticesKept_offerOrOwe o s
  | parking rd => exact noticesKept_finishHeld rd s
  | ending rep => exact .refl s

theorem noticesKept_commitPart (s : State) : NoticesKept s (commitPart s) := by
  unfold commitPart
  split
  · exact .refl s
  · exact .replied _ _ s
  · exact (noticesKept_evalPart _ s).then_same rfl
  · exact .refl s

/-- What every part keeps, the whole keeps. -/
theorem NoticesKept.iterate {f : State → State} (h : ∀ s, NoticesKept s (f s)) (k : Nat) (s : State) :
    NoticesKept s (Nat.iterate f k s) := by
  induction k generalizing s with
  | zero => exact .refl s
  | succ k ih => exact (h s).trans (ih (f s))

theorem noticesKept_commitStage (s : State) : NoticesKept s (commitStage s) := by
  obtain ⟨k, hk⟩ := exists_iterate_commitPart_eq s
  exact hk ▸ .iterate noticesKept_commitPart k s

theorem notices_dayRefusal {rd : Reading} {day window : Nat} {s : State} {out : Reply × State}
    (h : dayRefusal rd day window s = some out) : out.2.notices = s.notices := by
  unfold dayRefusal at h
  dsimp only at h
  split at h
  · cases h
    rfl
  · split at h
    · cases h
      rfl
    · split at h
      · cases h
        rfl
      · split at h <;> cases h
        rfl

theorem noticesKept_acceptLot (c : Caller) (rd : Reading) (day window : Nat) (s : State) :
    NoticesKept s (acceptLot c rd day window s) := by
  unfold acceptLot
  split
  · have hslot : NoticesKept s (fillSlot rd s) := .of_notices rfl
    exact .finished c _ (hslot.trans (noticesKept_finishHeld rd _))
  · exact .of_notices rfl

theorem noticesKept_acceptReading (c : Caller) (s : State) : NoticesKept s (acceptReading c s) := by
  unfold acceptReading acceptDay
  split
  · exact .replied c _ s
  · split
    · next hout => exact .finished c _ (.of_notices (notices_dayRefusal hout))
    · exact noticesKept_acceptLot ..

theorem notices_classifyStage (s : State) : (classifyStage s).notices = s.notices := by
  unfold classifyStage
  split <;> rfl

/-! ### The sweep -/

theorem notices_recheck (rd : Reading) (lot : LotRecord) (profile : Profile) (s : State) :
    (recheck rd lot profile s).2.notices = s.notices := by
  unfold recheck
  split <;> rfl

theorem notices_countMiss (n : Nat) (pr : Process) (s : State) : (countMiss n pr s).2.notices = s.notices := by
  unfold countMiss
  dsimp only
  split <;> rfl

theorem noticesKept_owedStep (n : Nat) (pr : Process) (cls : NoticeClass) (s : State) :
    NoticesKept s (owedStep n pr cls s) := by
  unfold owedStep
  dsimp only
  split
  · split
    · exact .of_notices rfl
    · next o _ =>
      have h := noticesKept_takeOffer o s
      generalize takeOffer o s = out at h ⊢
      rcases out with ⟨_ | _ | _, t⟩
      · exact h.then_same rfl
      · exact h.then_same rfl
      · exact h
  · exact .refl s

theorem noticesKept_visitPart (n : Nat) (pr : Process) (st : VisitStage) (s : State) :
    NoticesKept s (visitPart n pr st s).2 := by
  cases st with
  | arrive =>
    unfold visitPart
    dsimp only
    split
    · exact .refl s
    · split
      · exact .refl s
      · split <;> exact .refl s
  | snapped rd lot profile =>
    have h := notices_recheck rd lot profile s
    unfold visitPart
    dsimp only
    generalize recheck rd lot profile s = out at h ⊢
    rcases out with ⟨_ | ev, t⟩ <;> exact .of_notices h
  | retry st =>
    have h : NoticesKept s (retryPart st s).2 := (retryPart_eq st s).1 ▸ noticesKept_evalPart st s
    unfold visitPart
    dsimp only
    generalize retryPart st s = out at h ⊢
    rcases out with ⟨_ | st', t⟩ <;> exact h
  | miss =>
    have h := notices_countMiss n pr s
    unfold visitPart
    dsimp only
    generalize countMiss n pr s = out at h ⊢
    rcases out with ⟨_ | m, t⟩ <;> exact .of_notices h
  | overdue missed => exact noticesKept_offerOrOwe _ s
  | owed cls => cases cls <;> exact noticesKept_owedStep ..

theorem notices_endSlice (s : State) : (endSlice s).notices = s.notices := by
  unfold endSlice
  rw [notices_arbitrate, notices_advanceSweep]

theorem noticesKept_slicePart (s : State) : NoticesKept s (slicePart s) := by
  unfold slicePart
  split
  · next i st _ =>
    split
    · have h := noticesKept_visitPart (sliceStore s i) (sliceProcess i) st s
      generalize visitPart (sliceStore s i) (sliceProcess i) st s = out at h ⊢
      rcases out with ⟨_ | st', t⟩ <;> exact h.then_same rfl
    · exact .of_notices (notices_endSlice s)
  · exact .refl s

theorem noticesKept_sliceStage (s : State) : NoticesKept s (sliceStage s) := by
  obtain ⟨k, hk⟩ := exists_iterate_slicePart_eq s
  exact hk ▸ .iterate noticesKept_slicePart k s

end Sys2Proof.Machine

namespace Sys2Proof.Machine

/-! ### Chart edits -/

theorem noticesKept_withGranted {code : RequestCode} {f : Caller → State → State} {s : State}
    (h : ∀ c, NoticesKept s (f c s)) : NoticesKept s (withGranted code f s) := by
  unfold withGranted
  split
  · split
    · exact h _
    · exact .refl s
  · exact .refl s

theorem noticesKept_onChart {code : RequestCode} {f : Caller → Nat → Process → State → State} {s : State}
    (h : ∀ c n pr, NoticesKept s (f c n pr s)) :
    NoticesKept s (withGranted code (fun c => onChart c (f c)) s) := by
  refine noticesKept_withGranted fun c => ?_
  unfold onChart
  split
  · exact h c _ _
  · exact .replied c _ s

section Edits
variable (c : Caller) (n : Nat) (pr : Process) (s : State)

theorem noticesKept_enrolGrant : NoticesKept s (enrolGrant c n pr s) := by
  unfold enrolGrant
  split
  · exact .of_notices rfl
  · exact .replied c _ s

theorem noticesKept_withdrawGrant : NoticesKept s (withdrawGrant c n pr s) := by
  unfold withdrawGrant
  split
  · exact .replied c _ s
  · exact .of_notices rfl

theorem noticesKept_restoreGrant : NoticesKept s (restoreGrant c n pr s) := by
  unfold restoreGrant
  dsimp only
  split
  · exact .replied c _ s
  · split
    · exact .replied c _ s
    · split
      · exact .of_notices rfl
      · exact .replied c _ s

theorem noticesKept_edited (rep : Reply) (f : Chart → Chart) :
    NoticesKept s (finishOperation c rep (s.modChart n pr f)) := .finished c rep (.of_notices rfl)

theorem noticesKept_suspendTake : NoticesKept s (suspendTake c n pr s) := by
  unfold suspendTake
  split
  · exact .replied c _ s
  · exact noticesKept_edited ..
  · exact noticesKept_edited ..
  · exact .replied c _ s

theorem noticesKept_resumeWith (restart : Bool) : NoticesKept s (resumeWith c restart n pr s) := by
  unfold resumeWith
  split
  · exact .replied c _ s
  · exact noticesKept_edited ..
  · exact .replied c _ s
  · exact .replied c _ s

theorem noticesKept_resumeTake : NoticesKept s (resumeTake c n pr s) := by
  unfold resumeTake
  split
  · exact noticesKept_resumeWith ..
  · exact noticesKept_resumeWith ..
  · exact .replied c _ s

theorem noticesKept_changeEnrolled (f : Chart → Chart) : NoticesKept s (changeEnrolled c f n pr s) := by
  unfold changeEnrolled
  split
  · exact .replied c _ s
  · exact noticesKept_edited ..

theorem noticesKept_instrumentTake : NoticesKept s (instrumentTake c s) := by
  unfold instrumentTake
  dsimp only
  split
  · split
    · exact .finished c _ (.of_notices rfl)
    · exact .replied c _ s
  · exact .replied c _ s

end Edits

theorem notices_joinLot {pr : Process} {n : Nat} {s t : State} (h : joinLot pr n s = some t) :
    t.notices = s.notices := by
  unfold joinLot at h
  split at h
  · cases h
    rfl
  · split at h
    · cases h
      exact notices_setTable s pr _
    · cases h

theorem noticesKept_enrolCommit (s : State) : NoticesKept s (enrolCommit s) := by
  unfold enrolCommit
  split
  · split
    · next hjoin => exact .finished _ _ (.of_notices ((notices_setChart ..).trans (notices_joinLot hjoin)))
    · exact .finished _ _ (.of_notices rfl)
  · exact .refl s

theorem noticesKept_restoreCommit (s : State) : NoticesKept s (restoreCommit s) := by
  unfold restoreCommit
  split
  · split
    · next hjoin => exact .finished _ _ (.of_notices ((notices_setChart ..).trans (notices_joinLot hjoin)))
    · exact .finished _ _ (.of_notices rfl)
  · exact .refl s

/-- A withdrawal takes the chart's notices out of the queue (R126). -/
theorem noticesKept_withdrawCommit (s : State) : NoticesKept s (withdrawCommit s) := by
  by_cases hwithdraw : ∃ c n pr, s.engine = some (.withdrawing c n pr)
  · obtain ⟨c, n, pr, he⟩ := hwithdraw
    rw [withdrawCommit_at he]
    exact .finished c _ ((noticesKept_filter _ s).then_same (notices_unlisted n pr s))
  · unfold withdrawCommit
    split
    · next c n pr he => exact absurd ⟨c, n, pr, he⟩ hwithdraw
    · exact .refl s

/-! ### Owner work -/

theorem noticesKept_serveOwner {code : RequestCode} {p : Port} {s : State}
    {take : ByteOrder → List Octet → State → Reply × State} (h : ∀ o b, NoticesKept s (take o b s).2) :
    NoticesKept s (serveOwner code p take s) := by
  unfold serveOwner
  split
  · split
    · exact (h _ _).then_same (notices_answered _ _ _ _)
    · exact .refl s
  · exact .refl s

theorem notices_writePatternTake (o : ByteOrder) (b : List Octet) (s : State) :
    (writePatternTake o b s).2.notices = s.notices := by
  unfold writePatternTake
  split
  · split
    · rfl
    · split <;> rfl
  · rfl

theorem noticesKept_acknowledgeTake (o : ByteOrder) (b : List Octet) (s : State) :
    NoticesKept s (acknowledgeTake o b s).2 := by
  unfold acknowledgeTake
  dsimp only
  split
  · exact .refl s
  · split
    · exact .refl s
    · split
      · exact noticesKept_filter _ s
      · exact .refl s

theorem notices_closeDayTake (o : ByteOrder) (b : List Octet) (s : State) :
    (closeDayTake o b s).2.notices = s.notices := by
  unfold closeDayTake
  split
  · rfl
  · split
    · exact notices_arbitrate _
    · rfl

theorem notices_setCalendarTake (o : ByteOrder) (b : List Octet) (s : State) :
    (setCalendarTake o b s).2.notices = s.notices := by
  unfold setCalendarTake
  split
  · rfl
  · split <;> rfl

/-! ### Every step -/

theorem noticesKept_deviceReset (s : State) : NoticesKept s (deviceResetState s) :=
  ⟨fun _ => noticesOk_of_notices (s := State.reset) rfl (by decide)⟩

theorem notices_linkReset (p : Port) (s : State) : (onLine (linkReset p) s).notices = s.notices := by
  unfold onLine linkReset
  split
  · rfl
  · split
    · rfl
    · exact notices_modPort s p _

/-- Every command answers a next state and keeps the form of the Notice Queue. -/
theorem exec_noticesKept (i : Instr) (s : State) : ∃ t, exec i s = .next t ∧ NoticesKept s t := by
  have owner : ∀ {code : RequestCode} {p : Port} {take : ByteOrder → List Octet → State → Reply × State},
      (∀ o b, (take o b s).2.notices = s.notices) → NoticesKept s (serveOwner code p take s) :=
    fun h => noticesKept_serveOwner fun o b => .of_notices (h o b)
  have line : ∀ {f : State → State}, Quiet s (f s) → NoticesKept s (onLine f s) := fun h => .of_quiet (quiet_onLine h)
  cases i with
  | deviceReset => exact ⟨_, rfl, noticesKept_deviceReset s⟩
  | resetRelease a b c =>
    obtain ⟨t, ht, hq⟩ := quiet_resetRelease a b c s
    exact ⟨t, ht, .of_quiet hq⟩
  | linkReset p => exact ⟨_, rfl, .of_notices (notices_linkReset p s)⟩
  | frameAbandoned p cause => exact ⟨_, rfl, line (quiet_frameAbandoned p cause s)⟩
  | frameReceived p octets => exact ⟨_, rfl, line (quiet_receiveOctets p _ s)⟩
  | abortFrame p => exact ⟨_, rfl, line (quiet_abortFrame p s)⟩
  | replySent p => exact ⟨_, rfl, line (.modPort s p _)⟩
  | frameStart p => exact ⟨_, rfl, line (quiet_receiveOctet p _ s)⟩
  | octetInError p => exact ⟨_, rfl, line (.modPort s p _)⟩
  | receiverResumes p => exact ⟨_, rfl, line (.modPort s p _)⟩
  | postReading => exact ⟨_, rfl, noticesKept_withGranted fun c => noticesKept_acceptReading c s⟩
  | classify => exact ⟨_, rfl, .of_notices (notices_classifyStage s)⟩
  | evaluationCommit x =>
    cases x with
    | whole => exact ⟨_, rfl, noticesKept_commitStage s⟩
    | part => exact ⟨_, rfl, noticesKept_commitPart s⟩
  | sweepSlice x =>
    cases x with
    | whole => exact ⟨_, rfl, noticesKept_sliceStage s⟩
    | part => exact ⟨_, rfl, noticesKept_slicePart s⟩
  | enrolChart => exact ⟨_, rfl, noticesKept_onChart fun c n pr => noticesKept_enrolGrant c n pr s⟩
  | enrolChartCommit => exact ⟨_, rfl, noticesKept_enrolCommit s⟩
  | withdrawChart => exact ⟨_, rfl, noticesKept_onChart fun c n pr => noticesKept_withdrawGrant c n pr s⟩
  | withdrawChartCommit => exact ⟨_, rfl, noticesKept_withdrawCommit s⟩
  | suspendChart => exact ⟨_, rfl, noticesKept_onChart fun c n pr => noticesKept_suspendTake c n pr s⟩
  | resumeChart => exact ⟨_, rfl, noticesKept_onChart fun c n pr => noticesKept_resumeTake c n pr s⟩
  | restartChart => exact ⟨_, rfl, noticesKept_onChart fun c n pr => noticesKept_changeEnrolled c n pr s _⟩
  | setHold => exact ⟨_, rfl, noticesKept_onChart fun c n pr => noticesKept_changeEnrolled c n pr s _⟩
  | setInstrument => exact ⟨_, rfl, noticesKept_withGranted fun c => noticesKept_instrumentTake c s⟩
  | readChart => exact ⟨_, rfl, noticesKept_onChart fun c _ _ => .replied c _ s⟩
  | restoreChart => exact ⟨_, rfl, noticesKept_onChart fun c n pr => noticesKept_restoreGrant c n pr s⟩
  | restoreChartCommit => exact ⟨_, rfl, noticesKept_restoreCommit s⟩
  | stageLot p => exact ⟨_, rfl, owner fun o b => (quiet_stageLotTake p o b s).notices⟩
  | promoteLot p => exact ⟨_, rfl, owner fun o b => (quiet_promoteLotTake p o b s).notices⟩
  | retireLot p => exact ⟨_, rfl, owner fun o b => (quiet_retireLotTake o b s).notices⟩
  | readLot p => exact ⟨_, rfl, owner fun o b => (quiet_readLotTake p o b s).notices⟩
  | listLots p => exact ⟨_, rfl, owner fun o b => (quiet_listLotsTake o b s).notices⟩
  | stageProfile p => exact ⟨_, rfl, owner fun o b => (quiet_stageProfileTake p o b s).notices⟩
  | promoteProfile p => exact ⟨_, rfl, owner fun o b => (quiet_promoteProfileTake p o b s).notices⟩
  | readProfile p => exact ⟨_, rfl, owner fun o b => (quiet_readProfileTake p o b s).notices⟩
  | writePattern p => exact ⟨_, rfl, owner fun o b => notices_writePatternTake o b s⟩
  | readPattern p => exact ⟨_, rfl, owner fun o b => (quiet_readPatternTake o b s).notices⟩
  | listNotices p => exact ⟨_, rfl, owner fun o b => (quiet_listNoticesTake o b s).notices⟩
  | acknowledgeNotice p => exact ⟨_, rfl, noticesKept_serveOwner fun o b => noticesKept_acknowledgeTake o b s⟩
  | closeDay p => exact ⟨_, rfl, owner fun o b => notices_closeDayTake o b s⟩
  | setCalendar p => exact ⟨_, rfl, owner fun o b => notices_setCalendarTake o b s⟩
  | setLateWindow p => exact ⟨_, rfl, owner fun _ _ => rfl⟩
  | readCalendar p => exact ⟨_, rfl, owner fun _ _ => rfl⟩
  | setWindow p => exact ⟨_, rfl, owner fun o b => (quiet_setWindowTake o b s).notices⟩
  | setPortOptions p => exact ⟨_, rfl, owner fun o b => (quiet_setPortOptionsTake p o b s).notices⟩
  | readFlags p => exact ⟨_, rfl, owner fun _ _ => rfl⟩
  | clearFlags p => exact ⟨_, rfl, owner fun _ _ => (quiet_changeFlags p _ s).notices⟩
  | setFlagEnables p => exact ⟨_, rfl, owner fun _ _ => (quiet_changeFlags p _ s).notices⟩
  | identify p => exact ⟨_, rfl, owner fun _ _ => rfl⟩

/-- Settles O53: offers, removals and the reset keep the queue's form, and nothing else changes the queue. -/
theorem noticeQueueKeepsItsForm : Obligations.NoticeQueueKeepsItsForm := by
  intro s t hs h
  unfold step at h
  split at h
  · cases h
    exact hs
  · next c rest _ =>
    obtain ⟨u, hu, hkept⟩ := exec_noticesKept c { s with pending := rest }
    cases hu.symm.trans h
    exact hkept.form hs

end Sys2Proof.Machine

namespace Sys2Proof.Machine

/-! ## Close Day (R131) -/

section CloseDay
variable {o : ByteOrder} {b : List Octet} {s : State}

theorem closeDayTake_sweeping (h : s.calendar.sweep = .sweeping) :
    closeDayTake o b s = (.bare .sweepActive, s) := if_pos h

theorem closeDayTake_end (hidle : s.calendar.sweep = .idle) (hday : 65535 ≤ s.calendar.day) :
    closeDayTake o b s = (.bare .calendarEnd, s) := by
  have hmax : ¬ s.calendar.day < Config.max16 := Nat.not_lt.2 hday
  simp only [closeDayTake, hidle, reduceCtorEq, if_false, if_neg hmax]
  rfl

theorem closeDayTake_closed (hidle : s.calendar.sweep = .idle) (hday : s.calendar.day < 65535) :
    closeDayTake o b s =
      (⟨.started, [.o16 s.calendar.day]⟩, arbitrate { s with calendar := closedDay s.calendar }) := by
  have hmax : s.calendar.day < Config.max16 := hday
  simp only [closeDayTake, hidle, reduceCtorEq, if_false, if_pos hmax]

end CloseDay

/-- Every rotation comes to SWEEP, the last requester left when no port is present (R144, R146). -/
theorem find_rotation_sweep {s : State} (hports : ∀ p, present s (.port p) = false) (hsweep : present s .sweep = true)
    (q : Requester) : (rotationFrom q).find? (present s) = some .sweep := by
  rcases q with (_ | _ | _) | _ <;> simp [rotationFrom, Requester.next, hports, hsweep]

/-- With SWEEP the only requester, a free engine is granted to the first chart of a slice (R146, R148). -/
theorem arbitrate_sweep {s : State} (hfree : s.engine = none) (hports : ∀ p, present s (.port p) = false)
    (hsweep : s.calendar.sweep = .sweeping) : arbitrate s =
      { s with engine := some (.slice 0 .arrive), arbiter := ⟨s.arbiter.pointer, some .sweep, 1⟩ } := by
  have hpresent : present s .sweep = true := (present_sweep_iff s).2 ⟨hsweep, by simp [hfree]⟩
  exact arbitrate_free hfree (find_rotation_sweep hports hpresent _)

theorem waitingHead_set_calendar (s : State) (cal : Calendar) (p : Port) :
    waitingHead { s with calendar := cal } p = waitingHead s p := by cases p <;> rfl

/-- Whether a port is present does not depend on the calendar (R145). -/
theorem present_port_set_calendar (s : State) (cal : Calendar) (p : Port) :
    present { s with calendar := cal } (.port p) = present s (.port p) := by
  simp only [present, waitingHead_set_calendar]

/-- With an operation in flight an answer leaves the engine and the arbiter as they are (R149). -/
theorem answered_busy {s : State} (h : s.engine ≠ none) (p : Port) (r : Request) (rep : Reply) :
    s.answered p r rep = s.modPort p (answerPlaces r rep) :=
  arbitrate_busy (by rwa [engine_modPort])

/-- A Close Day at a free engine without a port present ends with the first slice in flight (R146, R148). -/
theorem answered_firstSlice {s : State} {cal : Calendar} (hfree : s.engine = none)
    (hports : ∀ q, present s (.port q) = false) (hsweep : cal.sweep = .sweeping) (p : Port) (r : Request)
    (rep : Reply) :
    ((arbitrate { s with calendar := cal }).answered p r rep).engine = some (.slice 0 .arrive) ∧
      ((arbitrate { s with calendar := cal }).answered p r rep).arbiter = ⟨s.arbiter.pointer, some .sweep, 1⟩ := by
  have hports' : ∀ q, present { s with calendar := cal } (.port q) = false := fun q =>
    (present_port_set_calendar s cal q).trans (hports q)
  rw [arbitrate_sweep (s := { s with calendar := cal }) hfree hports' hsweep, answered_busy (by simp), engine_modPort,
    arbiter_modPort]
  exact ⟨rfl, rfl⟩

/-- A Close Day beside an operation in flight keeps it (R149). -/
theorem answered_besideOperation {s : State} (hbusy : s.engine ≠ none) (cal : Calendar) (p : Port) (r : Request)
    (rep : Reply) :
    ((arbitrate { s with calendar := cal }).answered p r rep).engine = s.engine ∧
      ((arbitrate { s with calendar := cal }).answered p r rep).arbiter = s.arbiter := by
  have hbusy' : ({ s with calendar := cal } : State).engine ≠ none := hbusy
  rw [arbitrate_busy hbusy', answered_busy hbusy', engine_modPort, arbiter_modPort]
  exact ⟨rfl, rfl⟩

/-! ## Set Calendar and Set Late Window (R128, R129) -/

section Settings
variable {o : ByteOrder} {b : List Octet} {s : State}

theorem setCalendarTake_locked (h : s.calendar.enrolment ≠ 0) :
    setCalendarTake o b s = (.bare .calendarLocked, s) := if_pos h

theorem setCalendarTake_sweeping (h0 : s.calendar.enrolment = 0) (h : s.calendar.sweep = .sweeping) :
    setCalendarTake o b s = (.bare .sweepActive, s) :=
  (if_neg (not_not.2 h0)).trans (if_pos h)

theorem setCalendarTake_set (h0 : s.calendar.enrolment = 0) (h : s.calendar.sweep = .idle) :
    setCalendarTake o b s =
      (⟨.ok, [.o16 (u16 o b 0)]⟩, { s with calendar := { s.calendar with day := u16 o b 0 } }) :=
  (if_neg (not_not.2 h0)).trans (if_neg (by rw [h]; decide))

theorem setLateWindowTake_set (h : u8 b 0 ≤ 14) : setLateWindowTake o b s =
    (⟨.ok, [.o8 (u8 b 0)]⟩, { s with calendar := { s.calendar with lateWindow := u8 b 0 } }) := by
  have hmax : u8 b 0 ≤ Config.maxLateWindow := h
  simp only [setLateWindowTake, Nat.min_eq_left hmax, if_neg (Nat.not_lt.2 hmax)]

theorem setLateWindowTake_clamped (h : 14 < u8 b 0) : setLateWindowTake o b s =
    (⟨.clamped, [.o8 14]⟩, { s with calendar := { s.calendar with lateWindow := 14 } }) := by
  have hmax : Config.maxLateWindow < u8 b 0 := h
  simp only [setLateWindowTake, Nat.min_eq_right (Nat.le_of_lt hmax), if_pos hmax]
  rfl

end Settings

/-- Settles O31: each request by its checks; after a Close Day the first slice is in flight before the answer, or what
was in flight stays. -/
theorem calendarIsClosedAndSet : Obligations.CalendarIsClosedAndSet := by
  refine ⟨fun s p r h => ⟨fun hsweep => congrArg _ (serveOwner_eq h (closeDayTake_sweeping hsweep)),
      fun hidle hday => congrArg _ (serveOwner_eq h (closeDayTake_end hidle hday)),
      fun hidle hday => congrArg _ (serveOwner_eq h (closeDayTake_closed hidle hday)), fun t hidle hday ht => ?grant⟩,
    fun s p r => ⟨fun h => ⟨fun h0 => congrArg _ (serveOwner_eq h (setCalendarTake_locked h0)),
        fun h0 hsweep => congrArg _ (serveOwner_eq h (setCalendarTake_sweeping h0 hsweep)),
        fun h0 hidle => congrArg _ (serveOwner_eq h (setCalendarTake_set h0 hidle))⟩,
      fun h => ⟨fun hle => congrArg _ (serveOwner_eq h (setLateWindowTake_set hle)),
        fun hlt => congrArg _ (serveOwner_eq h (setLateWindowTake_clamped hlt))⟩⟩⟩
  case grant =>
    have hexec : exec (.closeDay p) s = .next _ :=
      congrArg Host.Outcome.next (serveOwner_eq h (closeDayTake_closed hidle hday))
    cases hexec.symm.trans ht
    exact ⟨fun hfree hports => answered_firstSlice hfree hports rfl p r _,
      fun hbusy => answered_besideOperation hbusy _ p r _⟩

end Sys2Proof.Machine

namespace Sys2Proof.Machine

/-! ## The miss count and the overdue step, whole (R135, R136) -/

section Misses
variable {n : Nat} {pr : Process} {s t : State}

theorem missStep_offered {missed : Nat} (h : countMiss n pr s = (some missed, t)) :
    missStep n pr s = offerOverdue n pr missed t := by
  simp only [missStep, h]

theorem missStep_unoffered (h : countMiss n pr s = (none, t)) : missStep n pr s = t := by
  simp only [missStep, h]

end Misses

/-- Settles O49: whether a miss is counted by `countsMiss_iff`, and the step by the outcome of `countMiss`. -/
theorem missesAndOverdue : Obligations.MissesAndOverdue := by
  intro s n pr ch d limit missed counted overdue
  have hcounted : countsMiss d ch = true ↔ counted := countsMiss_iff d ch
  exact ⟨fun hc => missStep_unoffered (countMiss_uncounted fun h => hc (hcounted.1 h)),
    fun hc hs hlimit => missStep_unoffered (countMiss_active (hcounted.2 hc) hs hlimit),
    fun hc hs => missStep_offered (countMiss_overdue (hcounted.2 hc) hs)⟩

/-! ## Owed re-issue (R137, R138) -/

section Rebuilt
variable {n : Nat} {pr : Process} {d : Nat} {c : Chart}

theorem rebuiltOffer_condition_none (h : ∀ r, c.lastResult = some r → r.code = 0) :
    rebuiltOffer n pr d c .condition = none := by
  cases hr : c.lastResult with
  | none => simp only [rebuiltOffer, hr]
  | some r => simp only [rebuiltOffer, hr, if_pos (h r hr)]

theorem rebuiltOffer_condition_some {r : LastResult} (hr : c.lastResult = some r) (hcode : r.code ≠ 0) :
    rebuiltOffer n pr d c .condition = some (driftOffer n pr r) := by
  simp only [rebuiltOffer, hr, if_neg hcode]

/-- ATTENDANCE applies to an OVERDUE chart, and to an ACTIVE one with a last day (R137). -/
theorem rebuiltOffer_attendance_none (hne : c.state ≠ .overdue) (h : c.state = .active → c.lastDay = none) :
    rebuiltOffer n pr d c .attendance = none := by
  cases hs : c.state with
  | off => simp only [rebuiltOffer, hs]
  | suspended => simp only [rebuiltOffer, hs]
  | active => simp only [rebuiltOffer, hs, h hs]
  | overdue => exact absurd hs hne

theorem rebuiltOffer_attendance_overdue (hs : c.state = .overdue) :
    rebuiltOffer n pr d c .attendance = some (overdueOffer n pr d c.missed) := by
  simp only [rebuiltOffer, hs]

theorem rebuiltOffer_attendance_resumed {l : Nat} (hs : c.state = .active) (hl : c.lastDay = some l) :
    rebuiltOffer n pr d c .attendance = some (resumedOffer n pr l c.missed) := by
  simp only [rebuiltOffer, hs, hl]

theorem rebuiltOffer_held_none (h : c.parked = none) : rebuiltOffer n pr d c .held = none := by
  simp only [rebuiltOffer, h]

theorem rebuiltOffer_held_some {pk : Parked} (h : c.parked = some pk) :
    rebuiltOffer n pr d c .held = some (heldOffer n pr pk.day pk.lot) := by
  simp only [rebuiltOffer, h]

end Rebuilt

section OwedStep
variable {n : Nat} {pr : Process} {cls : NoticeClass} {s : State}

theorem owedStep_unmarked (h : (s.chart n pr).owed.get cls = false) : owedStep n pr cls s = s :=
  if_neg (by rw [h]; decide)

variable (hmark : (s.chart n pr).owed.get cls = true)
include hmark

theorem owedStep_lapsed (h : rebuiltOffer n pr s.calendar.closingDay (s.chart n pr) cls = none) :
    owedStep n pr cls s = clearOwed n pr cls s := by
  simp only [owedStep, if_pos hmark, h]

variable {o : Offer} (ho : rebuiltOffer n pr s.calendar.closingDay (s.chart n pr) cls = some o)
include ho

/-- The mark stays when the offer is refused again (R138). -/
theorem owedStep_refused (h : (takeOffer o s).1 = .refused) : owedStep n pr cls s = (takeOffer o s).2 := by
  simp only [owedStep, if_pos hmark, ho]
  generalize takeOffer o s = out at h ⊢
  obtain ⟨a, t⟩ := out
  cases h
  rfl

theorem owedStep_taken (h : (takeOffer o s).1 ≠ .refused) :
    owedStep n pr cls s = clearOwed n pr cls (takeOffer o s).2 := by
  simp only [owedStep, if_pos hmark, ho]
  generalize takeOffer o s = out at h ⊢
  obtain ⟨a, t⟩ := out
  cases a with
  | merged id => rfl
  | inserted id => rfl
  | refused => exact absurd rfl h

end OwedStep

/-- Settles O50: a marked class is re-issued by the notice rebuilt from the chart, if one is, and by the answer to its
offer. -/
theorem owedNoticesAreReissued : Obligations.OwedNoticesAreReissued := by
  intro s n pr ch cleared
  refine ⟨rfl, fun cls => ⟨owedStep_unmarked, fun hmark =>
    ⟨fun hlapsed => owedStep_lapsed hmark ?lapsed, fun o hoffer => ?offer⟩⟩⟩
  case lapsed =>
    cases cls with
    | condition => exact rebuiltOffer_condition_none hlapsed
    | attendance =>
      obtain ⟨hne, hlast⟩ := hlapsed
      exact rebuiltOffer_attendance_none hne hlast
    | held => exact rebuiltOffer_held_none hlapsed
  case offer =>
    have hrebuilt : rebuiltOffer n pr s.calendar.closingDay (s.chart n pr) cls = some o := by
      cases cls with
      | condition =>
        obtain ⟨r, hr, hcode, rfl⟩ := hoffer
        exact rebuiltOffer_condition_some hr hcode
      | attendance =>
        obtain ⟨hs, rfl⟩ | ⟨l, hs, hl, rfl⟩ := hoffer
        · exact rebuiltOffer_attendance_overdue hs
        · exact rebuiltOffer_attendance_resumed hs hl
      | held =>
        obtain ⟨pk, hpk, rfl⟩ := hoffer
        exact rebuiltOffer_held_some hpk
    exact ⟨owedStep_refused hmark hrebuilt, owedStep_taken hmark hrebuilt⟩

end Sys2Proof.Machine

namespace Sys2Proof.Machine

/-! ## A visit (R132, R134) -/

section Visit
variable {n : Nat} {pr : Process} {s : State}

theorem visitChart_passed (h : (s.chart n pr).state = .off ∨ (s.chart n pr).state = .suspended) :
    visitChart n pr s = s := if_pos h

variable (h : (s.chart n pr).state = .active ∨ (s.chart n pr).state = .overdue)
include h

theorem visitChart_unparked (hp : (s.chart n pr).parked = none) :
    visitChart n pr s = finishOwed n pr .condition (missStep n pr s) := by
  simp only [visitChart, if_neg (not_off_or_suspended h), hp]
  rfl

theorem visitChart_parked {pk : Parked} (hp : (s.chart n pr).parked = some pk) :
    visitChart n pr s = visitFrom n pr (retryStart n pr pk s) := by
  simp only [visitChart, if_neg (not_off_or_suspended h), hp]

end Visit

/-! ## The eight stores of a slice (R132) -/

theorem sliceStore_film (s : State) (k : Nat) : sliceStore s (2 * k) = s.calendar.nextStore + k := by
  rw [sliceStore, Nat.mul_div_cancel_left k Nat.two_pos]

theorem sliceStore_paper (s : State) (k : Nat) : sliceStore s (2 * k + 1) = s.calendar.nextStore + k := by
  unfold sliceStore
  omega

theorem sliceProcess_film (k : Nat) : sliceProcess (2 * k) = .f := if_pos (by omega)

theorem sliceProcess_paper (k : Nat) : sliceProcess (2 * k + 1) = .p := if_neg (by omega)

theorem calendar_visitChart (n : Nat) (pr : Process) (s : State) : (visitChart n pr s).calendar = s.calendar :=
  (chartWork_visitChart n pr s).calendar

/-- Two charts of a slice in a row are a store's film chart and its paper chart. -/
theorem visitCharts_store (k count : Nat) (s : State) : visitCharts (2 * k) (count + 2) s =
    visitCharts (2 * (k + 1)) count
      (visitChart (s.calendar.nextStore + k) .p (visitChart (s.calendar.nextStore + k) .f s)) := by
  rw [visitCharts_succ, visitCharts_succ, sliceStore_film, sliceProcess_film, sliceStore_paper, sliceProcess_paper,
    calendar_visitChart]
  rfl

/-- The next store stands still while the charts of a slice are visited. -/
theorem visitCharts_stores {base : Nat} (k count : Nat) (s : State) (hbase : s.calendar.nextStore = base) :
    visitCharts (2 * k) (2 * count) s =
      (List.range' k count).foldl (fun u i => visitChart (base + i) .p (visitChart (base + i) .f u)) s := by
  induction count generalizing k s with
  | zero => rfl
  | succ count ih =>
    rw [Nat.mul_succ, visitCharts_store, hbase, List.range'_succ, List.foldl_cons]
    exact ih (k + 1) _ (by rw [calendar_visitChart, calendar_visitChart, hbase])

theorem sliceStage_whole {s : State} (he : s.engine = some (.slice 0 .arrive)) :
    sliceStage s = endSlice (visitCharts 0 16 s) :=
  (sliceStage_at he (by decide)).trans (congrArg endSlice (visitCharts_succ 0 15 s).symm)

/-- Settles O47: the charts of a slice two by two are its stores, none of whose visits moves the next store; a visit is
the rest of it after its retry, if a reading is parked. -/
theorem sliceVisitsEightStores : Obligations.SliceVisitsEightStores := by
  intro s he
  have hstores : visitCharts 0 16 s = (List.range 8).foldl (fun u i =>
      visitChart (s.calendar.nextStore + i) .p (visitChart (s.calendar.nextStore + i) .f u)) s :=
    (visitCharts_stores 0 8 s rfl).trans (by rw [List.range_eq_range'])
  refine ⟨visitCharts 0 16 s, hstores, congrArg Host.Outcome.next ?slice, fun u n pr =>
    ⟨visitChart_passed, fun h => ⟨fun pk hp => ?parked, visitChart_unparked h⟩⟩⟩
  case slice => rw [sliceStage_whole he, endSlice_eq, (chartWork_visitCharts 0 16 s).calendar]
  case parked =>
    rw [visitChart_parked h hp]
    rcases retryStart n pr pk u with ⟨_ | ev, v⟩ <;> rfl

end Sys2Proof.Machine

namespace Sys2Proof.Machine

/-! ## The head of a queue, answered or granted (R143, R158) -/

theorem setHead_append_cons (pg : Progress) {before : List Place} {pl : Place} (after : List Place)
    (hb : ∀ x ∈ before, x.isAnswered = true) (hp : pl.isAnswered = false) :
    setHead pg (before ++ pl :: after) = before ++ { pl with progress := pg } :: after := by
  induction before with
  | nil =>
    rcases pl with ⟨r, _ | _ | rep⟩
    · rfl
    · rfl
    · cases hp
  | cons y rest ih =>
    obtain ⟨hy, hrest⟩ := List.forall_mem_cons.1 hb
    rcases y with ⟨r, _ | _ | rep⟩
    · cases hy
    · cases hy
    · exact congrArg (⟨r, .answered rep⟩ :: ·) (ih hrest)

theorem answerPlaces_at {ps : PortState} {before after : List Place} {pl : Place} (r : Request) (rep : Reply)
    (hl : ps.places = before ++ pl :: after) (hb : ∀ x ∈ before, x.isAnswered = true) (hp : pl.isAnswered = false) :
    answerPlaces r rep ps = startSending { ps with places := before ++
      { pl with progress := .answered (replyFrame ps.byteOrder r rep) } :: after } := by
  unfold answerPlaces
  rw [hl, setHead_append_cons _ after hb hp]

theorem places_answerPlaces (r : Request) (rep : Reply) (ps : PortState) :
    (answerPlaces r rep ps).places = setHead (.answered (replyFrame ps.byteOrder r rep)) ps.places :=
  places_startSending _

/-- A mark of a grant never stands on an answered place. -/
theorem eq_of_settled_eq {x y : Place} (h : x.settled = y.settled) (hy : y.isAnswered = true) : x = y := by
  rcases y with ⟨r, _ | _ | rep⟩
  · cases hy
  · cases hy
  · rcases x with ⟨r', _ | _ | rep'⟩
    · cases h
    · cases h
    · exact h

/-- Answered places at the front of a queue are as they were, whatever grant was marked. -/
theorem exists_append_of_map_settled {l before after : List Place} (hb : ∀ x ∈ before, x.isAnswered = true)
    (h : l.map Place.settled = (before ++ after).map Place.settled) :
    ∃ after', l = before ++ after' ∧ after'.map Place.settled = after.map Place.settled := by
  induction before generalizing l with
  | nil => exact ⟨l, rfl, h⟩
  | cons y rest ih =>
    obtain ⟨hy, hrest⟩ := List.forall_mem_cons.1 hb
    obtain ⟨x, l', rfl, hx, hl'⟩ := List.map_eq_cons_iff.1 h
    obtain ⟨after', rfl, hafter⟩ := ih hrest hl'
    exact ⟨after', by rw [eq_of_settled_eq hx hy]; rfl, hafter⟩

/-- An answered head stays in its place through the grant decision that follows. -/
theorem PortKept.exists_answered {x ps : PortState} {r : Request} {rep : Reply}
    (h : PortKept x (answerPlaces r rep ps)) {before after : List Place} {pl : Place}
    (hl : ps.places = before ++ pl :: after) (hb : ∀ z ∈ before, z.isAnswered = true) (hp : pl.isAnswered = false) :
    ∃ after', x.places = before ++ { pl with progress := .answered (replyFrame ps.byteOrder r rep) } :: after' ∧
      after'.map Place.settled = after.map Place.settled := by
  obtain ⟨hkept, hmarks⟩ := h
  rw [places_answerPlaces, hl, setHead_append_cons _ after hb hp, ← List.singleton_append, ← List.append_assoc]
    at hmarks
  obtain ⟨after', hx, hafter⟩ := exists_append_of_map_settled (by simpa [or_imp, forall_and] using ⟨hb, rfl⟩) hmarks
  exact ⟨after', by rw [hx, List.append_assoc, List.singleton_append], hafter⟩

/-! ## The end of an operation (R149, R150) -/

/-- The state that an operation leaves: the engine free, and its reply placed, or discarded after a link reset. -/
def operationLeft (c : Caller) (rep : Reply) (s : State) : State :=
  if c.discardReply then { s with engine := none }
  else ({ s with engine := none } : State).modPort c.port (answerPlaces c.request rep)

theorem finishOperation_eq (c : Caller) (rep : Reply) (s : State) :
    finishOperation c rep s = burstDecision c.port (operationLeft c rep s) := rfl

theorem operationLeft_placed {c : Caller} (rep : Reply) (s : State) (h : c.discardReply = false) :
    operationLeft c rep s = ({ s with engine := none } : State).modPort c.port (answerPlaces c.request rep) :=
  if_neg (by rw [h]; decide)

@[simp] theorem engine_operationLeft (c : Caller) (rep : Reply) (s : State) :
    (operationLeft c rep s).engine = none := by
  unfold operationLeft
  split
  · rfl
  · exact engine_modPort _ _ _

@[simp] theorem arbiter_operationLeft (c : Caller) (rep : Reply) (s : State) :
    (operationLeft c rep s).arbiter = s.arbiter := by
  unfold operationLeft
  split
  · rfl
  · exact arbiter_modPort _ _ _

theorem port_operationLeft_placed {c : Caller} (rep : Reply) (s : State) (h : c.discardReply = false) :
    (operationLeft c rep s).port c.port = answerPlaces c.request rep (s.port c.port) := by
  rw [operationLeft_placed rep s h, port_modPort_same, port_set_engine]

theorem port_operationLeft_other {c : Caller} (rep : Reply) (s : State) {q : Port}
    (h : q ≠ c.port ∨ c.discardReply = true) : (operationLeft c rep s).port q = s.port q := by
  unfold operationLeft
  split
  · exact port_set_engine s q none
  · next hd => rw [port_modPort_other _ _ _ _ (h.resolve_right hd), port_set_engine]

/-- What an operation leaves at a port: all but its places and what it is sending. -/
theorem port_operationLeft_eq (c : Caller) (rep : Reply) (s : State) (q : Port) :
    (operationLeft c rep s).port q =
      { s.port q with
        places := ((operationLeft c rep s).port q).places, sending := ((operationLeft c rep s).port q).sending } := by
  by_cases h : q = c.port ∧ c.discardReply = false
  · obtain ⟨rfl, hd⟩ := h
    rw [port_operationLeft_placed rep s hd, answerPlaces_eq]
  · rw [port_operationLeft_other rep s ((not_and_or.1 h).imp id Bool.eq_true_of_not_eq_false)]

@[simp] theorem quota_operationLeft (c : Caller) (rep : Reply) (s : State) (q : Port) :
    ((operationLeft c rep s).port q).quota = (s.port q).quota := by rw [port_operationLeft_eq]

@[simp] theorem byteOrder_operationLeft (c : Caller) (rep : Reply) (s : State) (q : Port) :
    ((operationLeft c rep s).port q).byteOrder = (s.port q).byteOrder := by rw [port_operationLeft_eq]

/-! ## What a grant and a burst come to (R146, R147) -/

theorem present_of_waitingHead {s : State} {p : Port} {r : Request} (h : waitingHead s p = some r) :
    present s (.port p) = isEngineWork r.code := by
  simp only [present, h]

theorem present_of_no_waitingHead {s : State} {p : Port} (h : waitingHead s p = none) :
    present s (.port p) = false := by
  simp only [present, h]

theorem exists_waitingHead {s : State} {p : Port} (h : present s (.port p) = true) : ∃ r, waitingHead s p = some r := by
  cases hw : waitingHead s p with
  | none =>
    rw [present_of_no_waitingHead hw] at h
    cases h
  | some r => exact ⟨r, rfl⟩

theorem port_of_ports {s t : State} (h : t.ports = s.ports) (q : Port) : t.port q = s.port q := by
  cases q
  · exact congrArg Ports.a h
  · exact congrArg Ports.b h
  · exact congrArg Ports.c h

theorem grantTo_waiting {s : State} {p : Port} {r : Request} (n : Nat) (hw : waitingHead s p = some r) :
    grantTo (.port p) n s =
      { s.modPort p (fun ps => { ps with places := setHead .inFlight ps.places }) with
        engine := some (.granted ⟨p, r, (s.port p).byteOrder, false⟩)
        arbiter := ⟨s.arbiter.pointer, some (.port p), n⟩ } := by
  unfold grantTo
  dsimp only
  rw [hw]

theorem port_grantTo_waiting {s : State} {p : Port} {r : Request} (n : Nat) (hw : waitingHead s p = some r)
    (q : Port) : (grantTo (.port p) n s).port q =
      (s.modPort p fun ps => { ps with places := setHead .inFlight ps.places }).port q := by
  rw [grantTo_waiting n hw]
  exact port_of_ports rfl q

theorem arbiter_grantTo {s : State} {q : Requester} (n : Nat) (h : present s q = true) :
    (grantTo q n s).arbiter = ⟨s.arbiter.pointer, some q, n⟩ := by
  cases q with
  | sweep => rfl
  | port p =>
    obtain ⟨r, hw⟩ := exists_waitingHead h
    rw [grantTo_waiting n hw]

theorem grantTo_port {s : State} {p : Port} {r : Request} {before after : List Place} (n : Nat)
    (hw : waitingHead s p = some r) (hl : (s.port p).places = before ++ ⟨r, .waiting⟩ :: after)
    (hb : ∀ x ∈ before, x.isAnswered = true) :
    grantTo (.port p) n s =
      { s.modPort p (fun ps => { ps with places := before ++ ⟨r, .inFlight⟩ :: after }) with
        engine := some (.granted ⟨p, r, (s.port p).byteOrder, false⟩)
        arbiter := ⟨s.arbiter.pointer, some (.port p), n⟩ } := by
  have hmark : s.modPort p (fun ps => { ps with places := setHead .inFlight ps.places }) =
      s.modPort p (fun ps => { ps with places := before ++ ⟨r, .inFlight⟩ :: after }) := by
    unfold State.modPort
    dsimp only
    rw [hl, setHead_append_cons .inFlight after hb rfl]
  rw [grantTo_waiting n hw, hmark]

theorem burstDecision_continued {p : Port} {s : State} (hq : s.arbiter.burst < (s.port p).quota)
    (hp : present s (.port p) = true) : burstDecision p s = grantTo (.port p) (s.arbiter.burst + 1) s :=
  if_pos ⟨hq, hp⟩

theorem burstDecision_ended {p : Port} {s : State}
    (h : present s (.port p) = false ∨ (s.port p).quota ≤ s.arbiter.burst) :
    burstDecision p s = passOn (.port p) s := by
  refine if_neg fun ⟨hq, hp⟩ => ?_
  rcases h with h | h
  · rw [h] at hp
    cases hp
  · exact Nat.not_le.2 hq h

theorem mem_rotationFrom (x q : Requester) : q ∈ rotationFrom x := by
  rcases x with (_ | _ | _) | _ <;> rcases q with (_ | _ | _) | _ <;> decide

/-- What a grant decision can do: nothing, with an operation in flight or no requester, or one grant (R146). -/
theorem arbitrate_cases (s : State) :
    (arbitrate s = s ∧ (s.engine = none → ∀ q, present s q = false)) ∨
      ∃ q, s.engine = none ∧ present s q = true ∧ arbitrate s = grantTo q 1 s := by
  cases he : s.engine with
  | some op => exact .inl ⟨arbitrate_busy (by rw [he]; exact Option.some_ne_none op), fun h => nomatch h⟩
  | none =>
    cases hfind : (rotationFrom s.arbiter.pointer).find? (present s) with
    | some q => exact .inr ⟨q, rfl, List.find?_some hfind, arbitrate_free he hfind⟩
    | none =>
      have hnone : ∀ q, present s q = false := fun q =>
        Bool.eq_false_iff.2 (List.find?_eq_none.1 hfind q (mem_rotationFrom _ q))
      exact .inl ⟨arbitrate_idle he hnone, fun _ => hnone⟩

/-! ## Answers (R143, R158, R159) -/

/-- Settles O15: the head's place holds the reply, and the grant decision that follows moves no answered place. -/
theorem answeredRequestLeavesQueue : Obligations.AnsweredRequestLeavesQueue := by
  refine ⟨fun ps r rep before after pl hl hb hp => answerPlaces_at r rep hl hb hp, fun _ _ _ _ => rfl,
    fun s p r rep hw => ?owner, fun s c rep hd hhead => ?engine⟩
  case owner =>
    obtain ⟨-, before, after, hl, hb⟩ := (waitingHead_eq_some_iff s p r).1 hw
    have hkept := port_arbitrate (s.modPort p (answerPlaces r rep)) p
    rw [port_modPort_same] at hkept
    obtain ⟨after', hl', hafter⟩ := hkept.exists_answered hl hb rfl
    exact ⟨before, after, after', hl, hb, hl', hafter⟩
  case engine =>
    obtain ⟨before, after, hl, hb, -⟩ := (queueHead_eq_some_iff _ _).1 hhead
    have hkept := port_burstDecision c.port (operationLeft c rep s) c.port
    rw [port_operationLeft_placed rep s hd] at hkept
    obtain ⟨after', hl', hafter⟩ := hkept.exists_answered hl hb rfl
    exact ⟨before, after, after', hl, hb, hl', hafter⟩

theorem eq_set_engine_arbiter_ports {s t : State} (hpending : t.pending = s.pending)
    (hreset : t.resetHeld = s.resetHeld) (hrefs : t.refs = s.refs) (hstores : t.stores = s.stores)
    (hpatterns : t.patterns = s.patterns) (hnotices : t.notices = s.notices) (hcalendar : t.calendar = s.calendar) :
    t = { s with engine := t.engine, arbiter := t.arbiter, ports := t.ports } := by
  rw [← hpending, ← hreset, ← hrefs, ← hstores, ← hpatterns, ← hnotices, ← hcalendar]

theorem PortKept.sending {x y : PortState} (h : PortKept x y) : x.sending = y.sending := by rw [h.1]

/-- A port that a grant decision has kept, after a change of its places and of what it is sending. -/
theorem PortKept.eq_set_places_sending {x y z : PortState} (h : PortKept x y)
    (hy : y = { z with places := y.places, sending := y.sending }) :
    x = { z with places := x.places, sending := x.sending } := by
  rw [h.sending]
  exact h.1.trans (congrArg (fun ps : PortState => { ps with places := x.places }) hy)

/-- Settles O16: the fields that no answer and no grant decision touches, and the ports that they keep. -/
theorem answersTouchOnlyQueues : Obligations.AnswersTouchOnlyQueues := by
  refine ⟨fun s p q r rep => ⟨?ownerState, ?ownerPort, fun hq => ?ownerOther⟩,
    fun s q c rep => ⟨?engineState, ?enginePort, fun hq => ?engineOther⟩⟩
  case ownerState =>
    exact eq_set_engine_arbiter_ports (pending_answered ..) (resetHeld_answered ..) (refs_answered ..)
      (stores_answered ..) (patterns_answered ..) (notices_answered ..) (calendar_answered ..)
  case engineState =>
    exact eq_set_engine_arbiter_ports (pending_finishOperation ..) (resetHeld_finishOperation ..)
      (refs_finishOperation ..) (stores_finishOperation ..) (patterns_finishOperation ..)
      (notices_finishOperation ..) (calendar_finishOperation ..)
  case ownerPort =>
    refine (port_arbitrate (s.modPort p (answerPlaces r rep)) q).eq_set_places_sending ?_
    by_cases hq : q = p
    · subst hq
      rw [port_modPort_same, answerPlaces_eq]
    · rw [port_modPort_other _ _ _ _ hq]
  case ownerOther =>
    have hkept := port_arbitrate (s.modPort p (answerPlaces r rep)) q
    rw [port_modPort_other _ _ _ _ hq] at hkept
    exact ⟨hkept.2, hkept.sending⟩
  case enginePort =>
    exact (port_burstDecision c.port (operationLeft c rep s) q).eq_set_places_sending (port_operationLeft_eq c rep s q)
  case engineOther =>
    have hkept := port_burstDecision c.port (operationLeft c rep s) q
    rw [port_operationLeft_other rep s hq] at hkept
    exact ⟨hkept.2, hkept.sending⟩

/-! ## The decisions of the arbiter (R144, R146, R147) -/

/-- Settles O17: the search from the pointer finds the first requester present, and its grant is written out. -/
theorem emptyEngineIsGranted : Obligations.EmptyEngineIsGranted := by
  refine ⟨⟨rfl, rfl, rfl, rfl⟩, fun s => ⟨fun op he => arbitrate_busy (by rw [he]; exact Option.some_ne_none op),
    fun he => ⟨arbitrate_idle he, fun i q hi hq hbefore => ?_⟩⟩⟩
  have hfirst : (rotationFrom s.arbiter.pointer).find? (present s) = some q := by
    obtain ⟨hlt, hget⟩ := List.getElem?_eq_some_iff.1 hi
    refine List.find?_eq_some_iff_getElem.2 ⟨hq, i, hlt, hget, fun j hj => ?_⟩
    rw [hbefore j _ hj (List.getElem?_eq_getElem (hj.trans hlt))]
    rfl
  have hgrant : arbitrate s = grantTo q 1 s := arbitrate_free he hfirst
  refine ⟨hgrant ▸ arbiter_grantTo 1 hq, ?_, ?_⟩
  · rintro p r rfl hw
    obtain ⟨-, before, after, hl, hb⟩ := (waitingHead_eq_some_iff s p r).1 hw
    exact ⟨before, after, hl, hb, hgrant.trans (grantTo_port 1 hw hl hb)⟩
  · rintro rfl
    exact hgrant

/-- Settles O18: the operation leaves the burst count and the port's quota as they are, and they decide. -/
theorem burstIsDecidedAtTheEnd : Obligations.BurstIsDecidedAtTheEnd := by
  intro c rep s t ht
  obtain rfl : t = operationLeft c rep s := ht
  refine ⟨fun r hw hwork hburst => ?continued, fun hend => ?ended⟩
  case continued =>
    obtain ⟨-, before, after, hl, hb⟩ := (waitingHead_eq_some_iff _ _ r).1 hw
    have hgrant : finishOperation c rep s = grantTo (.port c.port) (s.arbiter.burst + 1) (operationLeft c rep s) := by
      rw [finishOperation_eq, burstDecision_continued (by simpa using hburst)
        ((present_of_waitingHead hw).trans hwork), arbiter_operationLeft]
    refine ⟨?_, ?_, before, after, hl, hb, ?_⟩
    · rw [hgrant, grantTo_waiting _ hw, byteOrder_operationLeft]
    · rw [hgrant, grantTo_waiting _ hw, arbiter_operationLeft]
    · rw [hgrant, port_grantTo_waiting _ hw, port_modPort_same]
      dsimp only
      rw [hl, setHead_append_cons .inFlight after hb rfl]
  case ended =>
    have hpassed : finishOperation c rep s = passOn (.port c.port) (operationLeft c rep s) := by
      rw [finishOperation_eq]
      refine burstDecision_ended ?_
      rw [arbiter_operationLeft, quota_operationLeft]
      rcases hend with hw | ⟨r, hw, hwork⟩ | hburst
      · exact .inl (present_of_no_waitingHead hw)
      · exact .inl ((present_of_waitingHead hw).trans hwork)
      · exact .inr hburst
    rw [hpassed]
    cases c.port <;> rfl

/-! ## Link reset (R150, R161, R169) -/

theorem linkReset_again {p : Port} {s : State} (h : (s.port p).receiver = .waitHigh true) : linkReset p s = s := by
  unfold linkReset
  rw [h]

theorem linkReset_first {p : Port} {s : State} (h : (s.port p).receiver ≠ .waitHigh true) :
    linkReset p s = { s.modPort p linkResetPort with engine := s.engine.map (discardFor p) } := by
  unfold linkReset
  split
  · next hr => exact absurd hr h
  · rfl

theorem exec_linkReset {s : State} (p : Port) (h : s.resetHeld = false) :
    exec (.linkReset p) s = .next (linkReset p s) := by
  show Host.Outcome.next (onLine (linkReset p) s) = _
  unfold onLine
  rw [h]
  rfl

/-- Settles O5: the reset writes the port's items once in a low, and marks the caller of the operation in flight. -/
theorem linkResetClearsThePort : Obligations.LinkResetClearsThePort := by
  refine fun s p hheld => ⟨fun hr => ⟨_, exec_linkReset p hheld, ?_⟩, fun hr => ?_⟩
  · rw [linkReset_first hr]
    have hport : ({ s.modPort p linkResetPort with engine := s.engine.map (discardFor p) } : State).port p =
        linkResetPort (s.port p) := by rw [port_set_engine, port_modPort_same]
    refine ⟨hport, by rw [hport]; rfl, fun q hq => ?_, ?_, ?_⟩
    · rw [port_set_engine, port_modPort_other _ _ _ _ hq]
    · cases p <;> rfl
    · show s.engine.map (discardFor p) = _
      refine congrArg (Option.map · s.engine) (funext fun op => ?_)
      cases op <;> rfl
  · rw [exec_linkReset p hheld, linkReset_again hr]

end Sys2Proof.Machine

namespace Sys2Proof.Machine

/-! ## The mark of a grant in a queue (R143, R149) -/

/-- The places of a port that has this request in flight, or none: the request at the head is marked, and no other. -/
def MarksOk : Option Request → List Place → Prop
  | some r, l => ∃ before after, l = before ++ ⟨r, .inFlight⟩ :: after ∧ (∀ x ∈ before, x.isAnswered = true) ∧
      ∀ x ∈ after, x.isInFlight = false
  | none, l => ∀ x ∈ l, x.isInFlight = false

theorem isInFlight_of_isAnswered {x : Place} (h : x.isAnswered = true) : x.isInFlight = false := by
  rcases x with ⟨r, _ | _ | rep⟩
  · cases h
  · cases h
  · rfl

theorem marksOk_some_iff (r : Request) (l : List Place) : MarksOk (some r) l ↔
    queueHead l = some ⟨r, .inFlight⟩ ∧ (l.filter Place.isInFlight).length = 1 := by
  have hcount : ∀ before after : List Place, (∀ x ∈ before, x.isAnswered = true) →
      (((before ++ ⟨r, .inFlight⟩ :: after).filter Place.isInFlight).length = 1 ↔
        ∀ x ∈ after, x.isInFlight = false) := by
    intro before after hb
    have hnone : before.filter Place.isInFlight = [] :=
      List.filter_eq_nil_iff.2 fun x hx => by rw [isInFlight_of_isAnswered (hb x hx)]; decide
    rw [List.filter_append, hnone, List.nil_append, List.filter_cons_of_pos rfl, List.length_cons]
    simp
  constructor
  · rintro ⟨before, after, rfl, hb, hafter⟩
    exact ⟨queueHead_append_cons after hb rfl, (hcount before after hb).2 hafter⟩
  · rintro ⟨hhead, hlength⟩
    obtain ⟨before, after, rfl, hb, -⟩ := (queueHead_eq_some_iff _ _).1 hhead
    exact ⟨before, after, rfl, hb, (hcount before after hb).1 hlength⟩

theorem inFlightOk_iff (s : State) (p : Port) :
    InFlightOk s p ↔ MarksOk (requestInFlight s p) (s.port p).places := by
  unfold InFlightOk
  cases requestInFlight s p with
  | none => rfl
  | some r => exact (marksOk_some_iff r _).symm

namespace MarksOk
variable {x : Option Request} {l : List Place}

/-- A request joins the queue at its tail (R158). -/
theorem append_waiting (h : MarksOk x l) (r : Request) : MarksOk x (l ++ [⟨r, .waiting⟩]) := by
  have htail : ∀ {l' : List Place}, (∀ y ∈ l', y.isInFlight = false) →
      ∀ y ∈ l' ++ [⟨r, .waiting⟩], y.isInFlight = false := fun hl y hy =>
    (List.mem_append.1 hy).elim (hl y) fun hr => by rw [List.mem_singleton.1 hr]; rfl
  cases x with
  | none => exact htail h
  | some r' =>
    obtain ⟨before, after, rfl, hb, hafter⟩ := h
    exact ⟨before, after ++ [⟨r, .waiting⟩], by rw [List.append_assoc, List.cons_append], hb, htail hafter⟩

/-- An ABORT touches no answered place and not the one in flight (R160). -/
theorem map_abortPlace (h : MarksOk x l) : MarksOk x (l.map abortPlace) := by
  have hmap : ∀ {l' : List Place}, (∀ y ∈ l', y.isInFlight = false) →
      ∀ y ∈ l'.map abortPlace, y.isInFlight = false := by
    intro l' hl y hy
    obtain ⟨⟨r, _ | _ | rep⟩, hz, rfl⟩ := List.mem_map.1 hy
    · rfl
    · exact hl _ hz
    · rfl
  cases x with
  | none => exact hmap h
  | some r =>
    obtain ⟨before, after, rfl, hb, hafter⟩ := h
    refine ⟨before, after.map abortPlace, ?_, hb, hmap hafter⟩
    have hsame : before.map abortPlace = before := by
      refine (List.map_congr_left fun y hy => ?_).trans (List.map_id _)
      rcases y with ⟨r', _ | _ | rep⟩
      · cases hb _ hy
      · rfl
      · rfl
    rw [List.map_append, hsame]
    rfl

/-- A reply that has been sent frees an answered place (R158). -/
theorem of_cons {y : Place} (h : MarksOk x (y :: l)) (hy : y.isAnswered = true) : MarksOk x l := by
  cases x with
  | none => exact (List.forall_mem_cons.1 h).2
  | some r =>
    obtain ⟨before, after, hl, hb, hafter⟩ := h
    cases before with
    | nil =>
      cases hl
      cases hy
    | cons z rest =>
      cases hl
      exact ⟨rest, after, rfl, (List.forall_mem_cons.1 hb).2, hafter⟩

/-- An answer at the head leaves no mark (R143, R149). -/
theorem setHead_answered (h : MarksOk x l) (f : ReplyFrame) : MarksOk none (setHead (.answered f) l) := by
  cases x with
  | some r =>
    obtain ⟨before, after, rfl, hb, hafter⟩ := h
    rw [setHead_append_cons _ after hb rfl]
    refine List.forall_mem_append.2 ⟨fun y hy => isInFlight_of_isAnswered (hb y hy), ?_⟩
    exact List.forall_mem_cons.2 ⟨rfl, hafter⟩
  | none =>
    induction l with
    | nil => exact h
    | cons y rest ih =>
      obtain ⟨hy, hrest⟩ := List.forall_mem_cons.1 h
      rcases y with ⟨r, _ | _ | rep⟩
      · exact List.forall_mem_cons.2 ⟨rfl, hrest⟩
      · cases hy
      · exact List.forall_mem_cons.2 ⟨rfl, ih hrest⟩

/-- A grant marks the head that waits (R146). -/
theorem setHead_inFlight (h : MarksOk none l) {r : Request} (hr : queueHead l = some ⟨r, .waiting⟩) :
    MarksOk (some r) (setHead .inFlight l) := by
  obtain ⟨before, after, rfl, hb, -⟩ := (queueHead_eq_some_iff _ _).1 hr
  obtain ⟨-, hrest⟩ := List.forall_mem_append.1 h
  exact ⟨before, after, setHead_append_cons _ after hb rfl, hb, (List.forall_mem_cons.1 hrest).2⟩

end MarksOk

/-! ## The request in flight (R149, R150) -/

theorem port?_eq (op : Operation) : op.port? = op.caller?.map Caller.port := by cases op <;> rfl

theorem requester_congr {op op' : Operation} (h : op'.caller? = op.caller?) : op'.requester = op.requester := by
  unfold Operation.requester
  rw [port?_eq, port?_eq, h]

theorem requestInFlight_free {s : State} (h : s.engine = none) (p : Port) : requestInFlight s p = none := by
  unfold requestInFlight
  rw [h]
  rfl

theorem requestInFlight_caller {s : State} {op : Operation} {c : Caller} (h : s.engine = some op)
    (hc : op.caller? = some c) (p : Port) :
    requestInFlight s p = if c.port = p ∧ c.discardReply = false then some c.request else none := by
  unfold requestInFlight
  rw [h, Option.bind_some, hc]

theorem requestInFlight_no_caller {s : State} {op : Operation} (h : s.engine = some op) (hc : op.caller? = none)
    (p : Port) : requestInFlight s p = none := by
  unfold requestInFlight
  rw [h, Option.bind_some, hc]

theorem requestInFlight_congr {s t : State} (h : t.engine.bind Operation.caller? = s.engine.bind Operation.caller?)
    (p : Port) : requestInFlight t p = requestInFlight s p := by
  unfold requestInFlight
  rw [h]

/-- A port whose head waits has no request in flight (R143). -/
theorem requestInFlight_of_waitingHead {s : State} {p : Port} {r : Request} (h : waitingHead s p = some r) :
    requestInFlight s p = none := by
  obtain ⟨hother, -⟩ := (waitingHead_eq_some_iff s p r).1 h
  cases he : s.engine with
  | none => exact requestInFlight_free he p
  | some op =>
    cases hc : op.caller? with
    | none => exact requestInFlight_no_caller he hc p
    | some c =>
      rw [requestInFlight_caller he hc, if_neg]
      rintro ⟨rfl, -⟩
      exact hother op he (by rw [port?_eq, hc]; rfl)

/-! ## Who waits at a free engine (R145) -/

theorem waitingHead_free {s : State} (h : s.engine = none) (p : Port) (r : Request) :
    waitingHead s p = some r ↔ queueHead (s.port p).places = some ⟨r, .waiting⟩ := by
  rw [waitingHead_eq_some_iff, queueHead_eq_some_iff, h]
  simp [Place.isAnswered]

/-- No engine request waits at the head of a queue, and no sweep runs. -/
structure NoneWaiting (s : State) : Prop where
  ports : ∀ p r, queueHead (s.port p).places = some ⟨r, .waiting⟩ → isEngineWork r.code = false
  sweep : s.calendar.sweep ≠ .sweeping

theorem noneWaiting_iff {s : State} (h : s.engine = none) : NoneWaiting s ↔ ∀ q, present s q = false := by
  constructor
  · rintro ⟨hports, hsweep⟩ (p | _)
    · cases hw : waitingHead s p with
      | none => exact present_of_no_waitingHead hw
      | some r => exact (present_of_waitingHead hw).trans (hports p r ((waitingHead_free h p r).1 hw))
    · exact Bool.eq_false_iff.2 fun hp => hsweep ((present_sweep_iff s).1 hp).1
  · intro hnone
    refine ⟨fun p r hr => ?_, fun hsweep => ?_⟩
    · rw [← present_of_waitingHead ((waitingHead_free h p r).2 hr), hnone]
    · have hp := (present_sweep_iff s).2 ⟨hsweep, fun i st he => by rw [h] at he; cases he⟩
      rw [hnone] at hp
      cases hp

/-! ## The arbiter's invariant, before and after its grant decision -/

/-- The grant and the burst count that go with what is in the engine (R144 to R149). -/
def GrantMatches (a : Arbiter) : Option Operation → Prop
  | none => a.grant = none ∧ a.burst = 0
  | some op => a.grant = some op.requester ∧ 1 ≤ a.burst ∧ a.burst ≤ 8

/-- All that `ArbiterOk` says but for who waits at a free engine, with the quotas in range: what holds when a grant
decision is due (R146). -/
structure ArbiterReady (s : State) : Prop where
  quotas : ∀ p, (s.port p).quota ≤ 8
  grant : GrantMatches s.arbiter s.engine
  marks : ∀ p, MarksOk (requestInFlight s p) (s.port p).places

/-- `ArbiterOk`, with the quotas in range (R164). -/
structure ArbiterSound (s : State) : Prop extends ArbiterReady s where
  idle : s.engine = none → NoneWaiting s

theorem arbiterOk_iff (s : State) : ArbiterOk s ↔
    (GrantMatches s.arbiter s.engine ∧ (s.engine = none → NoneWaiting s)) ∧
      ∀ p, MarksOk (requestInFlight s p) (s.port p).places := by
  unfold ArbiterOk
  refine and_congr ?_ (forall_congr' (inFlightOk_iff s))
  cases he : s.engine with
  | none => simp [GrantMatches, noneWaiting_iff he, and_assoc]
  | some op => simp [GrantMatches]

theorem arbiterSound_iff (s : State) : ArbiterSound s ↔ (∀ p, (s.port p).quota ≤ 8) ∧ ArbiterOk s := by
  rw [arbiterOk_iff]
  exact ⟨fun ⟨⟨hquotas, hgrant, hmarks⟩, hidle⟩ => ⟨hquotas, ⟨hgrant, hidle⟩, hmarks⟩,
    fun ⟨hquotas, ⟨hgrant, hidle⟩, hmarks⟩ => ⟨⟨hquotas, hgrant, hmarks⟩, hidle⟩⟩

/-- The engine is free and no place is marked: what a grant starts from (R146, R147). -/
structure EngineFree (s : State) : Prop where
  engine : s.engine = none
  quotas : ∀ p, (s.port p).quota ≤ 8
  marks : ∀ p, MarksOk none (s.port p).places

theorem ArbiterReady.free {s : State} (h : ArbiterReady s) (he : s.engine = none) : EngineFree s :=
  ⟨he, h.quotas, fun p => requestInFlight_free he p ▸ h.marks p⟩

/-- A grant to a requester that is present (R146). -/
theorem EngineFree.grantTo {s : State} (h : EngineFree s) {q : Requester} (hq : present s q = true)
    {n : Nat} (hn : 1 ≤ n ∧ n ≤ 8) : ArbiterSound (grantTo q n s) := by
  cases q with
  | sweep =>
    refine ⟨⟨fun p => ?_, ⟨rfl, hn⟩, fun p => ?_⟩, fun he => nomatch he⟩
    · exact (port_of_ports (s := s) rfl p).symm ▸ h.quotas p
    · exact (port_of_ports (s := s) rfl p).symm ▸ h.marks p
  | port p =>
    obtain ⟨r, hw⟩ := exists_waitingHead hq
    have hport := port_grantTo_waiting n hw
    have hengine : (Machine.grantTo (.port p) n s).engine = some (.granted ⟨p, r, (s.port p).byteOrder, false⟩) := by
      rw [grantTo_waiting n hw]
    refine ⟨⟨fun q => ?quotas, ?grant, fun q => ?marks⟩, fun he => nomatch hengine.symm.trans he⟩
    case quotas =>
      rw [hport, port_modPort]
      split
      · exact h.quotas p
      · exact h.quotas q
    case grant =>
      rw [hengine, arbiter_grantTo n hq]
      exact ⟨rfl, hn⟩
    case marks =>
      rw [requestInFlight_caller hengine rfl, hport, port_modPort]
      by_cases hqp : q = p
      · subst hqp
        rw [if_pos ⟨rfl, rfl⟩, if_pos rfl]
        exact (h.marks q).setHead_inFlight ((waitingHead_free h.engine q r).1 hw)
      · rw [if_neg fun hp => hqp hp.1.symm, if_neg hqp]
        exact h.marks q

/-- The grant decision leaves no requester at a free engine (R146). -/
theorem ArbiterReady.arbitrate {s : State} (h : ArbiterReady s) : ArbiterSound (arbitrate s) := by
  rcases arbitrate_cases s with ⟨hsame, hnone⟩ | ⟨q, he, hq, hgrant⟩
  · rw [hsame]
    exact ⟨h, fun he => (noneWaiting_iff he).2 (hnone he)⟩
  · rw [hgrant]
    exact (h.free he).grantTo hq ⟨Nat.le_refl 1, by decide⟩

/-- The grant that passes on is none until the grant decision that follows (R147). -/
theorem EngineFree.passOn {s : State} (h : EngineFree s) (q : Requester) : ArbiterSound (passOn q s) := by
  refine ArbiterReady.arbitrate ⟨fun p => ?_, ?_, fun p => ?_⟩
  · rw [port_set_arbiter]
    exact h.quotas p
  · show GrantMatches _ s.engine
    rw [h.engine]
    exact ⟨rfl, rfl⟩
  · rw [requestInFlight_free (s := { s with arbiter := ⟨q.next, none, 0⟩ }) h.engine, port_set_arbiter]
    exact h.marks p

/-- The decision at the end of a port's operation (R147). -/
theorem EngineFree.burstDecision {s : State} (h : EngineFree s) (p : Port) : ArbiterSound (burstDecision p s) := by
  unfold Machine.burstDecision
  split
  · next hburst =>
    obtain ⟨hcount, hpresent⟩ := hburst
    exact h.grantTo hpresent ⟨Nat.le_add_left 1 _, (Nat.succ_le_of_lt hcount).trans (h.quotas p)⟩
  · exact h.passOn _

end Sys2Proof.Machine

namespace Sys2Proof.Machine

/-! ## Work that the arbiter does not see

Most commands leave the engine, the arbiter and the queues as they are. -/

/-- A change of a port that keeps its places, and its quota in range. -/
def QueueKept (x y : PortState) : Prop := y.places = x.places ∧ (x.quota ≤ 8 → y.quota ≤ 8)

theorem queueKept_refl (x : PortState) : QueueKept x x := ⟨rfl, id⟩

theorem QueueKept.trans {x y z : PortState} (h : QueueKept x y) (k : QueueKept y z) : QueueKept x z :=
  ⟨k.1.trans h.1, k.2 ∘ h.2⟩

/-- The engine, the arbiter and the queues are as they were. -/
structure QueuesKept (s t : State) : Prop where
  engine : t.engine = s.engine
  arbiter : t.arbiter = s.arbiter
  port : ∀ p, QueueKept (s.port p) (t.port p)

/-- And the sweep runs as before: nothing is changed that the arbiter rests on. -/
structure Unseen (s t : State) : Prop extends QueuesKept s t where
  sweep : t.calendar.sweep = s.calendar.sweep

namespace QueuesKept
variable {s t u : State}

theorem of_ports (he : t.engine = s.engine) (ha : t.arbiter = s.arbiter) (hp : t.ports = s.ports) : QueuesKept s t :=
  ⟨he, ha, fun p => by rw [port_of_ports hp]; exact queueKept_refl _⟩

theorem trans (h : QueuesKept s t) (k : QueuesKept t u) : QueuesKept s u :=
  ⟨k.engine.trans h.engine, k.arbiter.trans h.arbiter, fun p => (h.port p).trans (k.port p)⟩

theorem modPort (s : State) (p : Port) (f : PortState → PortState)
    (hf : ∀ x, QueueKept x (f x) := by exact fun _ => ⟨rfl, id⟩) : QueuesKept s (s.modPort p f) where
  engine := engine_modPort s p f
  arbiter := arbiter_modPort s p f
  port q := by
    rw [port_modPort]
    split
    · next hq =>
      subst hq
      exact hf _
    · exact queueKept_refl _

theorem raiseAll (f : Flag) (s : State) : QueuesKept s (raiseAll f s) :=
  ⟨rfl, rfl, fun p => by rw [port_raiseAll]; exact ⟨rfl, id⟩⟩

end QueuesKept

theorem ArbiterReady.kept {s t : State} (h : ArbiterReady s) (k : QueuesKept s t) : ArbiterReady t where
  quotas p := (k.port p).2 (h.quotas p)
  grant := by
    rw [k.engine, k.arbiter]
    exact h.grant
  marks p := by
    rw [requestInFlight_congr (s := s) (t := t) (by rw [k.engine]), (k.port p).1]
    exact h.marks p

namespace Unseen
variable {s t u : State}

theorem of_ports (he : t.engine = s.engine) (ha : t.arbiter = s.arbiter) (hp : t.ports = s.ports)
    (hc : t.calendar.sweep = s.calendar.sweep) : Unseen s t := ⟨.of_ports he ha hp, hc⟩

theorem refl (s : State) : Unseen s s := of_ports rfl rfl rfl rfl

theorem trans (h : Unseen s t) (k : Unseen t u) : Unseen s u :=
  ⟨h.toQueuesKept.trans k.toQueuesKept, k.sweep.trans h.sweep⟩

theorem modPort (s : State) (p : Port) (f : PortState → PortState)
    (hf : ∀ x, QueueKept x (f x) := by exact fun _ => ⟨rfl, id⟩) : Unseen s (s.modPort p f) :=
  ⟨.modPort s p f hf, congrArg Calendar.sweep (calendar_modPort s p f)⟩

theorem raiseAll (f : Flag) (s : State) : Unseen s (raiseAll f s) := ⟨.raiseAll f s, rfl⟩

theorem setChart (s : State) (n : Nat) (pr : Process) (c : Chart) : Unseen s (s.setChart n pr c) :=
  of_ports rfl rfl rfl rfl

theorem modChart (s : State) (n : Nat) (pr : Process) (f : Chart → Chart) : Unseen s (s.modChart n pr f) :=
  setChart s n pr _

theorem setTable (s : State) (pr : Process) (x : ProcTable) : Unseen s (s.setTable pr x) :=
  of_ports (engine_setTable s pr x) (arbiter_setTable s pr x) (ports_setTable s pr x)
    (congrArg Calendar.sweep (calendar_setTable s pr x))

end Unseen

theorem NoneWaiting.unseen {s t : State} (h : NoneWaiting s) (k : Unseen s t) : NoneWaiting t where
  ports p r hr := h.ports p r ((k.port p).1 ▸ hr)
  sweep hs := h.sweep (k.sweep ▸ hs)

theorem ArbiterSound.unseen {s t : State} (h : ArbiterSound s) (k : Unseen s t) : ArbiterSound t :=
  ⟨h.toArbiterReady.kept k.toQueuesKept, fun he => (h.idle (k.engine ▸ he)).unseen k⟩

/-! ## What a step makes of the invariant -/

/-- The arbiter's invariant is kept from one state to another. -/
structure ArbiterKept (s t : State) : Prop where
  sound : ArbiterSound s → ArbiterSound t

namespace ArbiterKept
variable {s t u : State}

theorem refl (s : State) : ArbiterKept s s := ⟨id⟩

theorem trans (h : ArbiterKept s t) (k : ArbiterKept t u) : ArbiterKept s u := ⟨k.sound ∘ h.sound⟩

theorem of_unseen (k : Unseen s t) : ArbiterKept s t := ⟨fun h => h.unseen k⟩

/-- What every part keeps, the whole keeps. -/
theorem iterate {f : State → State} (h : ∀ s, ArbiterKept s (f s)) (k : Nat) (s : State) :
    ArbiterKept s (Nat.iterate f k s) := by
  induction k generalizing s with
  | zero => exact refl s
  | succ k ih => exact (h s).trans (ih (f s))

/-- Work of the engine that leaves the operation in flight at another stage: its caller and so its grant stay. -/
theorem staged {op op' : Operation} (he : s.engine = some op) (hop : op'.caller? = op.caller?) (k : Unseen s t) :
    ArbiterKept s { t with engine := some op' } := by
  refine ⟨fun h => ⟨⟨fun p => ?quotas, ?grant, fun p => ?marks⟩, fun hn => nomatch hn⟩⟩
  case quotas =>
    rw [port_set_engine]
    exact (k.port p).2 (h.quotas p)
  case grant =>
    have hg := h.grant
    rw [he, ← k.arbiter] at hg
    show _ = some op'.requester ∧ _
    rw [requester_congr hop]
    exact hg
  case marks =>
    rw [requestInFlight_congr (s := s) (by rw [he]; exact hop), port_set_engine, (k.port p).1]
    exact h.marks p

/-- The end of the operation in flight, after work that the arbiter does not see (R147, R149, R150). -/
theorem finished {op : Operation} {c : Caller} (he : s.engine = some op) (hc : op.caller? = some c) (rep : Reply)
    (k : Unseen s t) : ArbiterKept s (finishOperation c rep t) := by
  refine ⟨fun h => EngineFree.burstDecision ⟨engine_operationLeft c rep t, fun p => ?quotas, fun p => ?marks⟩ c.port⟩
  case quotas =>
    rw [quota_operationLeft]
    exact (k.port p).2 (h.quotas p)
  case marks =>
    have hmarks := h.marks p
    rw [requestInFlight_caller he hc, ← (k.port p).1] at hmarks
    by_cases hp : c.port = p ∧ c.discardReply = false
    · obtain ⟨rfl, hd⟩ := hp
      rw [port_operationLeft_placed rep t hd, places_answerPlaces]
      exact hmarks.setHead_answered _
    · rw [if_neg hp] at hmarks
      rw [port_operationLeft_other rep t ((not_and_or.1 hp).imp Ne.symm Bool.eq_true_of_not_eq_false)]
      exact hmarks

theorem replied {op : Operation} {c : Caller} (he : s.engine = some op) (hc : op.caller? = some c) (rep : Reply) :
    ArbiterKept s (finishOperation c rep s) := finished he hc rep (.refl s)

end ArbiterKept

/-! ## Offers, evaluations and visits are not seen -/

theorem unseen_takeOffer (o : Offer) (s : State) : Unseen s (takeOffer o s).2 := by
  have hnotices : ∀ q, Unseen s { s with notices := q } := fun q => .of_ports rfl rfl rfl rfl
  unfold takeOffer
  dsimp only
  split
  · exact (hnotices _).trans (.raiseAll _ _)
  · split
    · split
      · exact (hnotices _).trans ((Unseen.raiseAll _ _).trans (.raiseAll _ _))
      · exact (hnotices _).trans (.raiseAll _ _)
    · exact .raiseAll _ _

theorem unseen_offerOrOwe (o : Offer) (s : State) : Unseen s (offerOrOwe o s).2 := by
  by_cases h : (takeOffer o s).1 = .refused
  · rw [offerOrOwe_refused h]
    dsimp only
    exact (unseen_takeOffer o s).trans (.modChart _ _ _ _)
  · rw [offerOrOwe_taken h]
    exact unseen_takeOffer o s

theorem unseen_countDown (pr : Process) (n : Nat) (s : State) : Unseen s (countDown pr n s) := by
  unfold countDown
  split
  · exact .refl s
  · exact .setTable s pr _

theorem unseen_moveLot {pr : Process} {old new : Nat} {s t : State} (h : moveLot pr old new s = some t) :
    Unseen s t := by
  unfold moveLot at h
  split at h
  · cases h
    split
    · exact .refl s
    · exact (unseen_countDown pr old s).trans (.setTable _ pr _)
  · cases h

theorem unseen_joinLot {pr : Process} {n : Nat} {s t : State} (h : joinLot pr n s = some t) : Unseen s t := by
  unfold joinLot at h
  split at h
  · cases h
    exact .refl s
  · split at h
    · cases h
      exact .setTable s pr _
    · cases h

theorem unseen_commitWrite {ev : Evaluation} {res : Result} {s t : State} {offers : List Offer}
    (h : commitWrite ev res s = some (offers, t)) : Unseen s t := by
  unfold commitWrite at h
  dsimp only at h
  split at h
  · next hmove =>
    cases h
    exact (unseen_moveLot hmove).trans (.setChart ..)
  · cases h

theorem unseen_fillSlot (rd : Reading) (s : State) : Unseen s (fillSlot rd s) := .modChart ..

theorem unseen_evalPart (st : EvalStage) (s : State) : Unseen s (evalPart st s).2 := by
  cases st with
  | computed ev => exact .refl s
  | classified ev res =>
    unfold evalPart
    dsimp only
    split
    · next hw => exact unseen_commitWrite hw
    · exact unseen_fillSlot ev.reading s
  | offering ev res l id owed =>
    cases l with
    | nil => exact .refl s
    | cons o rest => exact unseen_offerOrOwe o s
  | parking rd => exact unseen_offerOrOwe _ s
  | ending rep => exact .refl s

theorem unseen_dayRefusal {rd : Reading} {day window : Nat} {s : State} {out : Reply × State}
    (h : dayRefusal rd day window s = some out) : Unseen s out.2 := by
  unfold dayRefusal at h
  dsimp only at h
  split at h
  · cases h
    exact .refl s
  · split at h
    · cases h
      exact .refl s
    · split at h
      · cases h
        dsimp only
        exact .modChart ..
      · split at h <;> cases h
        exact .refl s

theorem unseen_recheck (rd : Reading) (lot : LotRecord) (profile : Profile) (s : State) :
    Unseen s (recheck rd lot profile s).2 := by
  unfold recheck
  split
  · dsimp only
    exact .modChart ..
  · exact .refl s

theorem unseen_countMiss (n : Nat) (pr : Process) (s : State) : Unseen s (countMiss n pr s).2 := by
  unfold countMiss
  dsimp only
  split
  · exact .setChart ..
  · exact .refl s

theorem unseen_owedStep (n : Nat) (pr : Process) (cls : NoticeClass) (s : State) :
    Unseen s (owedStep n pr cls s) := by
  unfold owedStep
  dsimp only
  split
  · split
    · exact .modChart ..
    · next o _ =>
      have h := unseen_takeOffer o s
      generalize takeOffer o s = out at h ⊢
      rcases out with ⟨_ | _ | _, t⟩
      · exact h.trans (.modChart ..)
      · exact h.trans (.modChart ..)
      · exact h
  · exact .refl s

theorem unseen_visitPart (n : Nat) (pr : Process) (st : VisitStage) (s : State) :
    Unseen s (visitPart n pr st s).2 := by
  cases st with
  | arrive =>
    unfold visitPart
    dsimp only
    split
    · exact .refl s
    · split
      · exact .refl s
      · split <;> exact .refl s
  | snapped rd lot profile =>
    have h := unseen_recheck rd lot profile s
    unfold visitPart
    dsimp only
    generalize recheck rd lot profile s = out at h ⊢
    rcases out with ⟨_ | ev, t⟩ <;> exact h
  | retry st =>
    have h : Unseen s (retryPart st s).2 := (retryPart_eq st s).1 ▸ unseen_evalPart st s
    unfold visitPart
    dsimp only
    generalize retryPart st s = out at h ⊢
    rcases out with ⟨_ | st', t⟩ <;> exact h
  | miss =>
    have h := unseen_countMiss n pr s
    unfold visitPart
    dsimp only
    generalize countMiss n pr s = out at h ⊢
    rcases out with ⟨_ | m, t⟩ <;> exact h
  | overdue missed => exact unseen_offerOrOwe _ s
  | owed cls => cases cls <;> exact unseen_owedStep ..

/-! ## Readings and the sweep -/

theorem arbiterKept_withGranted {code : RequestCode} {f : Caller → State → State} {s : State}
    (h : ∀ c, s.engine = some (.granted c) → ArbiterKept s (f c s)) : ArbiterKept s (withGranted code f s) := by
  unfold withGranted
  split
  · next he =>
    split
    · exact h _ he
    · exact .refl s
  · exact .refl s

theorem arbiterKept_acceptReading {c : Caller} {s : State} (he : s.engine = some (.granted c)) :
    ArbiterKept s (acceptReading c s) := by
  unfold acceptReading
  split
  · exact .replied he rfl _
  · unfold acceptDay
    split
    · next hout => exact .finished he rfl _ (unseen_dayRefusal hout)
    · unfold acceptLot
      split
      · exact .finished he rfl _ ((unseen_fillSlot _ s).trans (unseen_offerOrOwe _ _))
      · exact .staged he rfl (.refl s)

theorem arbiterKept_classifyStage (s : State) : ArbiterKept s (classifyStage s) := by
  unfold classifyStage
  split
  · next he => exact .staged he rfl (.refl s)
  · exact .refl s

theorem arbiterKept_commitPart (s : State) : ArbiterKept s (commitPart s) := by
  unfold commitPart
  split
  · exact .refl s
  · next he => exact .replied he rfl _
  · next he => exact .staged he rfl (unseen_evalPart _ s)
  · exact .refl s

theorem arbiterKept_commitStage (s : State) : ArbiterKept s (commitStage s) := by
  obtain ⟨k, hk⟩ := exists_iterate_commitPart_eq s
  exact hk ▸ .iterate arbiterKept_commitPart k s

theorem queuesKept_advanceSweep (s : State) : QueuesKept s (advanceSweep s) := by
  have hcalendar : ∀ x, QueuesKept s { s with calendar := x } := fun x => .of_ports rfl rfl rfl
  unfold advanceSweep
  dsimp only
  split
  · exact hcalendar _
  · exact (hcalendar _).trans (.raiseAll _ _)

/-- The end of a slice frees the engine and the grant, and the grant decision follows (R148). -/
theorem arbiterKept_endSlice {s : State} {i : Nat} {st : VisitStage} (he : s.engine = some (.slice i st)) :
    ArbiterKept s (endSlice s) := by
  refine ⟨fun h => ?_⟩
  have hfreed : ArbiterReady { s with engine := none, arbiter := ⟨.port .a, none, 0⟩ } := by
    refine ⟨fun p => (port_of_ports (s := s) rfl p).symm ▸ h.quotas p, ⟨rfl, rfl⟩, fun p => ?_⟩
    have hmarks := h.marks p
    rw [requestInFlight_no_caller he rfl] at hmarks
    exact (port_of_ports (s := s) rfl p).symm ▸ hmarks
  exact (hfreed.kept (queuesKept_advanceSweep _)).arbitrate

theorem arbiterKept_slicePart (s : State) : ArbiterKept s (slicePart s) := by
  unfold slicePart
  split
  · next i st he =>
    split
    · have h := unseen_visitPart (sliceStore s i) (sliceProcess i) st s
      generalize visitPart (sliceStore s i) (sliceProcess i) st s = out at h ⊢
      rcases out with ⟨_ | st', t⟩ <;> exact .staged he rfl h
    · exact arbiterKept_endSlice he
  · exact .refl s

theorem arbiterKept_sliceStage (s : State) : ArbiterKept s (sliceStage s) := by
  obtain ⟨k, hk⟩ := exists_iterate_slicePart_eq s
  exact hk ▸ .iterate arbiterKept_slicePart k s

/-! ## Chart edits -/

theorem arbiterKept_onChart {code : RequestCode} {f : Caller → Nat → Process → State → State} {s : State}
    (h : ∀ c n pr, s.engine = some (.granted c) → ArbiterKept s (f c n pr s)) :
    ArbiterKept s (withGranted code (fun c => onChart c (f c)) s) := by
  refine arbiterKept_withGranted fun c he => ?_
  unfold onChart
  split
  · exact h c _ _ he
  · exact .replied he rfl _

theorem unseen_modEnrolment (s : State) (f : Nat → Nat) : Unseen s (s.modEnrolment f) := .of_ports rfl rfl rfl rfl

section Edits
variable {c : Caller} {s : State} (he : s.engine = some (.granted c)) (n : Nat) (pr : Process)
include he

theorem arbiterKept_enrolGrant : ArbiterKept s (enrolGrant c n pr s) := by
  unfold enrolGrant
  split
  · exact .staged he rfl (unseen_modEnrolment s _)
  · exact .replied he rfl _

theorem arbiterKept_withdrawGrant : ArbiterKept s (withdrawGrant c n pr s) := by
  unfold withdrawGrant
  split
  · exact .replied he rfl _
  · exact .staged he rfl (.refl s)

theorem arbiterKept_restoreGrant : ArbiterKept s (restoreGrant c n pr s) := by
  unfold restoreGrant
  dsimp only
  split
  · exact .replied he rfl _
  · split
    · exact .replied he rfl _
    · split
      · exact .staged he rfl (unseen_modEnrolment s _)
      · exact .replied he rfl _

theorem arbiterKept_edited (rep : Reply) (f : Chart → Chart) :
    ArbiterKept s (finishOperation c rep (s.modChart n pr f)) := .finished he rfl rep (.modChart ..)

theorem arbiterKept_suspendTake : ArbiterKept s (suspendTake c n pr s) := by
  unfold suspendTake
  split
  · exact .replied he rfl _
  · exact arbiterKept_edited he ..
  · exact arbiterKept_edited he ..
  · exact .replied he rfl _

theorem arbiterKept_resumeWith (restart : Bool) : ArbiterKept s (resumeWith c restart n pr s) := by
  unfold resumeWith
  split
  · exact .replied he rfl _
  · exact arbiterKept_edited he ..
  · exact .replied he rfl _
  · exact .replied he rfl _

theorem arbiterKept_resumeTake : ArbiterKept s (resumeTake c n pr s) := by
  unfold resumeTake
  split
  · exact arbiterKept_resumeWith he ..
  · exact arbiterKept_resumeWith he ..
  · exact .replied he rfl _

theorem arbiterKept_changeEnrolled (f : Chart → Chart) : ArbiterKept s (changeEnrolled c f n pr s) := by
  unfold changeEnrolled
  split
  · exact .replied he rfl _
  · exact arbiterKept_edited he ..

theorem arbiterKept_instrumentTake : ArbiterKept s (instrumentTake c s) := by
  unfold instrumentTake
  dsimp only
  split
  · split
    · exact .finished he rfl _ (.of_ports rfl rfl rfl rfl)
    · exact .replied he rfl _
  · exact .replied he rfl _

end Edits

theorem arbiterKept_enrolCommit (s : State) : ArbiterKept s (enrolCommit s) := by
  unfold enrolCommit
  split
  · next he =>
    split
    · next hjoin => exact .finished he rfl _ ((unseen_joinLot hjoin).trans (.modChart ..))
    · exact .finished he rfl _ (unseen_modEnrolment s _)
  · exact .refl s

theorem arbiterKept_restoreCommit (s : State) : ArbiterKept s (restoreCommit s) := by
  unfold restoreCommit
  split
  · next he =>
    split
    · next hjoin => exact .finished he rfl _ ((unseen_joinLot hjoin).trans (.setChart ..))
    · exact .finished he rfl _ (unseen_modEnrolment s _)
  · exact .refl s

theorem arbiterKept_withdrawCommit (s : State) : ArbiterKept s (withdrawCommit s) := by
  unfold withdrawCommit
  split
  · next c n pr he =>
    have hremoved : ∀ u q, Unseen u { u with notices := q } := fun u q => .of_ports rfl rfl rfl rfl
    exact .finished he rfl _ ((((unseen_countDown pr _ s).trans (hremoved _ _)).trans
      (unseen_modEnrolment _ _)).trans (.setChart ..))
  · exact .refl s

end Sys2Proof.Machine

namespace Sys2Proof.Machine

/-! ## The line (R152 to R161) -/

theorem queueKept_startSending (x : PortState) : QueueKept x (startSending x) := by
  rw [startSending_eq]
  exact queueKept_refl x

theorem queueKept_refuseFrame (tag : BitVec 2) (code : Octet) (st : Status) (x : PortState) :
    QueueKept x (refuseFrame tag code st x) := by
  unfold refuseFrame
  split
  · exact queueKept_startSending _
  · exact queueKept_refl x

theorem queueKept_leaveFrame (counted : Bool) (x : PortState) : QueueKept x (leaveFrame counted x) := by
  cases counted <;> exact queueKept_refl x

theorem queueKept_octetInError (x : PortState) : QueueKept x (octetInError x) := by
  unfold octetInError
  split <;> exact queueKept_refl x

theorem queueKept_receiverResumes (x : PortState) : QueueKept x (receiverResumes x) := by
  unfold receiverResumes
  split <;> exact queueKept_refl x

theorem ArbiterReady.modPort {s : State} (h : ArbiterReady s) (p : Port) {f : PortState → PortState}
    (hq : (f (s.port p)).quota ≤ 8)
    (hm : MarksOk (requestInFlight s p) (s.port p).places →
      MarksOk (requestInFlight s p) (f (s.port p)).places) : ArbiterReady (s.modPort p f) where
  quotas q := by
    rw [port_modPort]
    split
    · exact hq
    · exact h.quotas q
  grant := by
    rw [engine_modPort, arbiter_modPort]
    exact h.grant
  marks q := by
    rw [requestInFlight_congr (s := s) (by rw [engine_modPort]), port_modPort]
    split
    · next hqp =>
      subst hqp
      exact hm (h.marks q)
    · exact h.marks q

/-- A port whose queue changes keeps the marks, and no new head waits at it. -/
theorem ArbiterSound.modPort {s : State} (h : ArbiterSound s) (p : Port) {f : PortState → PortState}
    (hq : (f (s.port p)).quota ≤ 8)
    (hm : MarksOk (requestInFlight s p) (s.port p).places →
      MarksOk (requestInFlight s p) (f (s.port p)).places)
    (hw : ∀ r, queueHead (f (s.port p)).places = some ⟨r, .waiting⟩ →
      queueHead (s.port p).places = some ⟨r, .waiting⟩) : ArbiterSound (s.modPort p f) := by
  refine ⟨h.toArbiterReady.modPort p hq hm, fun he => ?_⟩
  obtain ⟨hports, hsweep⟩ := h.idle (engine_modPort s p f ▸ he)
  refine ⟨fun q r hr => ?_, calendar_modPort s p f ▸ hsweep⟩
  rw [port_modPort] at hr
  split at hr
  · exact hports p r (hw r hr)
  · exact hports q r hr

theorem arbiterKept_onLine {f : State → State} {s : State} (h : ArbiterKept s (f s)) :
    ArbiterKept s (onLine f s) := by
  unfold onLine
  split
  · exact .refl s
  · exact h

/-- An accepted request may make its port a requester, and a grant decision follows (R145, R158). -/
theorem arbiterKept_acceptRequest (p : Port) (tag : BitVec 2) (code : Octet) (body : List Octet) (s : State) :
    ArbiterKept s (acceptRequest p tag code body s) := by
  unfold acceptRequest
  split
  · exact .of_unseen (.modPort s p _ (queueKept_refuseFrame tag code _))
  · exact ⟨fun h => (h.toArbiterReady.modPort p (h.quotas p) fun hm => hm.append_waiting _).arbitrate⟩

theorem queueHead_map_abortPlace (l : List Place) (r : Request) :
    queueHead (l.map abortPlace) ≠ some ⟨r, .waiting⟩ := by
  induction l with
  | nil => exact fun h => nomatch h
  | cons y rest ih =>
    rcases y with ⟨r', _ | _ | rep⟩
    · exact ih
    · exact fun h => nomatch h
    · exact ih

/-- An ABORT leaves no request waiting at its port (R160). -/
theorem ArbiterSound.abortQueue {s : State} (h : ArbiterSound s) (p : Port) {f : PortState → PortState}
    (hf : QueueKept (s.port p) (f (s.port p))) :
    ArbiterSound (s.modPort p fun ps => Machine.abortQueue (f ps)) := by
  have hkept := queueKept_startSending { f (s.port p) with places := (f (s.port p)).places.map abortPlace }
  have hplaces : (Machine.abortQueue (f (s.port p))).places = (s.port p).places.map abortPlace := hf.1 ▸ hkept.1
  refine h.modPort p (hkept.2 (hf.2 (h.quotas p))) (fun hm => ?_) fun r hr => ?_
  · rw [hplaces]
    exact hm.map_abortPlace
  · rw [hplaces] at hr
    exact absurd hr (queueHead_map_abortPlace _ r)

theorem arbiterKept_endFrame (p : Port) (c : Content) (s : State) : ArbiterKept s (endFrame p c s) := by
  unfold endFrame
  dsimp only
  refine (ArbiterKept.of_unseen (.modPort s p _ (queueKept_leaveFrame (decodeContent c).1))).trans ?_
  split
  · exact .of_unseen (.modPort _ p _)
  · exact arbiterKept_acceptRequest p _ _ _ _
  · exact ⟨fun h => h.abortQueue p (f := id) (queueKept_refl _)⟩

theorem arbiterKept_receiveOctet (p : Port) (o : Octet) (s : State) : ArbiterKept s (receiveOctet p o s) := by
  unfold receiveOctet
  split
  · split
    · exact .of_unseen (.modPort s p _)
    · exact .refl s
  · exact .refl s
  · split
    · exact .of_unseen (.modPort s p _)
    · split
      · split <;> exact .of_unseen (.modPort s p _)
      · split
        · exact arbiterKept_endFrame p _ s
        · split <;> exact .of_unseen (.modPort s p _)

theorem arbiterKept_receiveOctets (p : Port) (octets : List Octet) (s : State) :
    ArbiterKept s (receiveOctets p octets s) := by
  induction octets generalizing s with
  | nil => exact .refl s
  | cons o rest ih => exact (arbiterKept_receiveOctet p o s).trans (ih _)

theorem arbiterKept_frameAbandoned (p : Port) (cause : AbandonCause) (s : State) :
    ArbiterKept s (frameAbandoned p cause s) := by
  unfold frameAbandoned
  split
  · exact .of_unseen (.modPort s p _)
  · exact .refl s

theorem arbiterKept_abortFrame (p : Port) (s : State) : ArbiterKept s (abortFrame p s) := by
  unfold abortFrame
  split
  · exact ⟨fun h => h.abortQueue p (f := fun ps => { ps with receiver := .looking }) ⟨rfl, id⟩⟩
  · exact .refl s

/-- A reply that has been sent was that of the oldest place, so the place that it frees is an answered one (R158). -/
theorem places_replySent {ps : PortState} (h : SendingOk ps) : (replySent ps).places = ps.places ∨
    ∃ y, y.isAnswered = true ∧ ps.places = y :: (replySent ps).places := by
  unfold SendingOk at h
  unfold replySent
  split
  · exact .inl (places_startSending _)
  · next hs =>
    rw [hs] at h
    rw [places_startSending]
    unfold headReply at h
    dsimp only at h ⊢
    split at h
    · next hl => exact .inr ⟨_, rfl, by rw [hl]; rfl⟩
    · cases h
  · exact .inl rfl

theorem quota_replySent (ps : PortState) : (replySent ps).quota = ps.quota := by
  unfold replySent
  split
  · rw [startSending_eq]
  · rw [startSending_eq]
  · rfl

theorem arbiterKept_replySent {s : State} {p : Port} (h : SendingOk (s.port p)) :
    ArbiterKept s (s.modPort p replySent) := by
  refine ⟨fun hs => hs.modPort p ((quota_replySent _).trans_le (hs.quotas p)) (fun hm => ?_) fun r hr => ?_⟩
  · rcases places_replySent h with hl | ⟨y, hy, hl⟩
    · rwa [hl]
    · rw [hl] at hm
      exact hm.of_cons hy
  · rcases places_replySent h with hl | ⟨⟨req, _ | _ | rep⟩, hy, hl⟩
    · rwa [← hl]
    · cases hy
    · cases hy
    · rw [hl]
      exact hr

/-! ## Resets (R150, R151, R161, R169) -/

theorem unseen_resetRelease (a b c : Rights) (s : State) : ∃ t, execResetRelease a b c s = .next t ∧ Unseen s t := by
  refine ⟨_, rfl, ?_⟩
  split
  · exact ⟨⟨rfl, rfl, fun p => by cases p <;> exact queueKept_refl _⟩, rfl⟩
  · exact .refl s

theorem arbiterKept_deviceReset (s : State) : ArbiterKept s (deviceResetState s) := by
  have hreset : ArbiterSound State.reset :=
    (arbiterSound_iff _).2 ⟨fun p => by rw [port_reset]; decide, arbiterOk_reset⟩
  exact ⟨fun _ => hreset.unseen (.of_ports rfl rfl rfl rfl)⟩

theorem caller?_discardFor (p : Port) (op : Operation) :
    (discardFor p op).caller? = op.caller?.map fun c => if c.port = p then c.discard else c := by cases op <;> rfl

theorem requester_discardFor (p : Port) (op : Operation) : (discardFor p op).requester = op.requester := by
  have hport : ∀ c : Caller, (if c.port = p then c.discard else c).port = c.port := fun c => by split <;> rfl
  unfold Operation.requester
  rw [port?_eq, port?_eq, caller?_discardFor]
  cases op.caller? with
  | none => rfl
  | some c => simp only [Option.map_some, hport]

/-- After a link reset of a port its operation has no request in flight there; the others keep theirs (R150). -/
theorem requestInFlight_discardFor {s t : State} {p : Port} (h : t.engine = s.engine.map (discardFor p)) (q : Port) :
    requestInFlight t q = if q = p then none else requestInFlight s q := by
  cases he : s.engine with
  | none =>
    rw [he] at h
    rw [requestInFlight_free h, requestInFlight_free he, ite_self]
  | some op =>
    rw [he] at h
    cases hc : op.caller? with
    | none =>
      rw [requestInFlight_no_caller h (by rw [caller?_discardFor, hc]; rfl), requestInFlight_no_caller he hc, ite_self]
    | some c =>
      rw [requestInFlight_caller h (by rw [caller?_discardFor, hc]; rfl), requestInFlight_caller he hc]
      by_cases hcp : c.port = p
      · subst hcp
        by_cases hq : q = c.port
        · simp [hq, Caller.discard]
        · simp [hq, Ne.symm hq, Caller.discard]
      · by_cases hq : q = p
        · simp [hcp, hq]
        · simp [hcp, hq]

/-- A link reset empties the port's queue, and its operation goes on without a mark there (R150, R161). -/
theorem arbiterKept_linkReset (p : Port) (s : State) : ArbiterKept s (linkReset p s) := by
  by_cases hr : (s.port p).receiver = .waitHigh true
  · rw [linkReset_again hr]
    exact .refl s
  rw [linkReset_first hr]
  have hport : ∀ q, ({ s.modPort p linkResetPort with engine := s.engine.map (discardFor p) } : State).port q =
      if q = p then linkResetPort (s.port p) else s.port q := fun q => by rw [port_set_engine, port_modPort]
  refine ⟨fun h => ⟨⟨fun q => ?quotas, ?grant, fun q => ?marks⟩, fun hfree => ?idle⟩⟩
  case quotas =>
    rw [hport]
    split
    · exact (by decide : 2 ≤ 8)
    · exact h.quotas q
  case grant =>
    have hg := h.grant
    show GrantMatches (s.modPort p linkResetPort).arbiter (s.engine.map (discardFor p))
    rw [arbiter_modPort]
    cases he : s.engine with
    | none =>
      rw [he] at hg
      exact hg
    | some op =>
      rw [he] at hg
      show _ = some (discardFor p op).requester ∧ _
      rw [requester_discardFor]
      exact hg
  case marks =>
    rw [requestInFlight_discardFor (s := s) (p := p) rfl, hport]
    split
    · exact fun x hx => absurd hx List.not_mem_nil
    · exact h.marks q
  case idle =>
    obtain ⟨hports, hsweep⟩ := h.idle (Option.map_eq_none_iff.1 hfree)
    refine ⟨fun q r hq => ?_, calendar_modPort s p linkResetPort ▸ hsweep⟩
    rw [hport] at hq
    split at hq
    · cases hq
    · exact hports q r hq

/-! ## Owner work (R143) -/

/-- Owner work that is taken leaves its port without a request in flight; the answer and a grant decision follow. -/
theorem arbiterKept_serveOwner_of {code : RequestCode} {p : Port} {s : State}
    {take : ByteOrder → List Octet → State → Reply × State}
    (h : ∀ r o b, waitingHead s p = some r → r.code = code → ArbiterSound s →
      ArbiterReady (take o b s).2 ∧ requestInFlight (take o b s).2 p = none) :
    ArbiterKept s (serveOwner code p take s) := by
  unfold serveOwner
  split
  · next r hw =>
    split
    · next hcode =>
      refine ⟨fun hs => ?_⟩
      obtain ⟨hready, hnone⟩ := h r (s.port p).byteOrder r.body hw hcode hs
      have hquota := hready.quotas p
      refine (hready.modPort p ?_ fun hm => ?_).arbitrate
      · rw [answerPlaces_eq]
        exact hquota
      · rw [hnone, places_answerPlaces]
        exact hm.setHead_answered _
    · exact .refl s
  · exact .refl s

theorem arbiterKept_serveOwner {code : RequestCode} {p : Port} {s : State}
    {take : ByteOrder → List Octet → State → Reply × State} (h : ∀ o b, Unseen s (take o b s).2) :
    ArbiterKept s (serveOwner code p take s) := by
  refine arbiterKept_serveOwner_of fun r o b hw _ hs => ⟨hs.toArbiterReady.kept (h o b).toQueuesKept, ?_⟩
  rw [requestInFlight_congr (s := s) (by rw [(h o b).engine])]
  exact requestInFlight_of_waitingHead hw

/-- A grant decision does not grant a port that is not present (R146). -/
theorem requestInFlight_arbitrate {s : State} {p : Port} (h : requestInFlight s p = none)
    (hp : present s (.port p) = false) : requestInFlight (arbitrate s) p = none := by
  rcases arbitrate_cases s with ⟨hsame, -⟩ | ⟨q, -, hq, hgrant⟩
  · rwa [hsame]
  · rw [hgrant]
    cases q with
    | sweep => exact requestInFlight_no_caller rfl rfl p
    | port q =>
      obtain ⟨r, hw⟩ := exists_waitingHead hq
      rw [requestInFlight_caller (congrArg State.engine (grantTo_waiting 1 hw)) rfl, if_neg]
      rintro ⟨rfl, -⟩
      rw [hp] at hq
      cases hq

/-- A Close Day makes SWEEP a requester; a slice may be granted, and not the port that the Close Day still heads
(R131, R148). -/
theorem arbiterKept_closeDay (p : Port) (s : State) : ArbiterKept s (serveOwner .closeDay p closeDayTake s) := by
  refine arbiterKept_serveOwner_of fun r o b hw hcode hs => ?_
  have hnone := requestInFlight_of_waitingHead hw
  unfold closeDayTake
  split
  · exact ⟨hs.toArbiterReady, hnone⟩
  · split
    · have hready : ArbiterReady { s with calendar := closedDay s.calendar } :=
        hs.toArbiterReady.kept (.of_ports rfl rfl rfl)
      have hwait : waitingHead { s with calendar := closedDay s.calendar } p = some r := by
        rw [waitingHead_eq_some_iff, port_set_calendar]
        exact (waitingHead_eq_some_iff s p r).1 hw
      refine ⟨hready.arbitrate.toArbiterReady, requestInFlight_arbitrate hnone ?_⟩
      rw [present_of_waitingHead hwait, hcode]
      rfl
    · exact ⟨hs.toArbiterReady, hnone⟩

end Sys2Proof.Machine

namespace Sys2Proof.Machine

/-! ## Owner work on tables, records and options -/

section Takes
variable (p : Port) (o : ByteOrder) (b : List Octet) (s : State)

theorem state_readLotTake : (readLotTake p o b s).2 = s := by
  unfold readLotTake
  split
  · split
    · rfl
    · split <;> rfl
  · split <;> rfl
  · rfl

theorem state_listLotsTake : (listLotsTake o b s).2 = s := by
  unfold listLotsTake
  split <;> rfl

theorem state_readProfileTake : (readProfileTake p o b s).2 = s := by
  unfold readProfileTake
  split
  · split <;> rfl
  · split <;> rfl
  · rfl

theorem state_readPatternTake : (readPatternTake o b s).2 = s := by
  unfold readPatternTake
  split <;> rfl

theorem state_listNoticesTake : (listNoticesTake o b s).2 = s := by
  unfold listNoticesTake
  dsimp only
  split <;> rfl

theorem unseen_stageLotTake : Unseen s (stageLotTake p o b s).2 := by
  unfold stageLotTake
  split
  · exact .refl s
  · split
    · exact .refl s
    · dsimp only
      exact .modPort s p _

theorem unseen_promoteLotTake : Unseen s (promoteLotTake p o b s).2 := by
  unfold promoteLotTake promoteStaged
  split
  · exact .refl s
  · dsimp only
    split
    · exact .refl s
    · split
      · exact .refl s
      · split
        · exact .refl s
        · exact (Unseen.setTable s _ _).trans (.raiseAll _ _)

theorem unseen_retireLotTake : Unseen s (retireLotTake o b s).2 := by
  unfold retireLotTake
  split
  · exact .refl s
  · split
    · exact .refl s
    · split
      · exact .refl s
      · exact (Unseen.setTable s _ _).trans (.raiseAll _ _)

theorem unseen_stageProfileTake : Unseen s (stageProfileTake p o b s).2 := by
  unfold stageProfileTake
  split
  · exact .refl s
  · dsimp only
    exact .modPort s p _

theorem unseen_promoteProfileTake : Unseen s (promoteProfileTake p o b s).2 := by
  unfold promoteProfileTake promoteStagedProfile
  split
  · exact .refl s
  · dsimp only
    split
    · exact .refl s
    · split
      · exact .refl s
      · split
        · exact (Unseen.setTable s _ _).trans (.raiseAll _ _)
        · exact .refl s

theorem unseen_writePatternTake : Unseen s (writePatternTake o b s).2 := by
  have hpatterns : ∀ x, Unseen s { s with patterns := x } := fun x => .of_ports rfl rfl rfl rfl
  unfold writePatternTake
  split
  · split
    · exact .refl s
    · split
      · exact (hpatterns _).trans (.raiseAll _ _)
      · exact .refl s
  · exact .refl s

theorem unseen_acknowledgeTake : Unseen s (acknowledgeTake o b s).2 := by
  unfold acknowledgeTake
  dsimp only
  split
  · exact .refl s
  · split
    · exact .refl s
    · split
      · exact .of_ports rfl rfl rfl rfl
      · exact .refl s

theorem unseen_setCalendarTake : Unseen s (setCalendarTake o b s).2 := by
  unfold setCalendarTake
  split
  · exact .refl s
  · split
    · exact .refl s
    · exact .of_ports rfl rfl rfl rfl

theorem unseen_setWindowTake : Unseen s (setWindowTake o b s).2 := by
  unfold setWindowTake
  dsimp only
  split
  · exact .refl s
  · split
    · dsimp only
      exact .modPort s _ _
    · exact .refl s

/-- A new quota lies in 1..8 (R164). -/
theorem unseen_setPortOptionsTake : Unseen s (setPortOptionsTake p o b s).2 := by
  unfold setPortOptionsTake
  split
  · exact .refl s
  · dsimp only
    refine .modPort s p _ fun x => ⟨rfl, fun _ => ?_⟩
    dsimp only
    rw [clampNat_eq_max_min (by decide)]
    exact max_le (by decide) (Nat.min_le_left _ _)

theorem unseen_clearFlagsTake : Unseen s (clearFlagsTake p o b s).2 := by
  unfold clearFlagsTake changeFlags
  dsimp only
  exact .modPort s p _

theorem unseen_setFlagEnablesTake : Unseen s (setFlagEnablesTake p o b s).2 := by
  unfold setFlagEnablesTake changeFlags
  dsimp only
  exact .modPort s p _

end Takes

/-! ## Every step -/

/-- Every command answers a next state and keeps the arbiter's invariant. -/
theorem exec_arbiterKept (i : Instr) (s : State) (hports : PortsOk s) : ∃ t, exec i s = .next t ∧ ArbiterKept s t := by
  have owner : ∀ {code : RequestCode} {p : Port} {take : ByteOrder → List Octet → State → Reply × State},
      (∀ o b, Unseen s (take o b s).2) → ArbiterKept s (serveOwner code p take s) := arbiterKept_serveOwner
  have read : ∀ {code : RequestCode} {p : Port} {take : ByteOrder → List Octet → State → Reply × State},
      (∀ o b, (take o b s).2 = s) → ArbiterKept s (serveOwner code p take s) :=
    fun h => owner fun o b => (h o b).symm ▸ .refl s
  have line : ∀ {f : State → State}, ArbiterKept s (f s) → ArbiterKept s (onLine f s) := arbiterKept_onLine
  cases i with
  | deviceReset => exact ⟨_, rfl, arbiterKept_deviceReset s⟩
  | resetRelease a b c =>
    obtain ⟨t, ht, hu⟩ := unseen_resetRelease a b c s
    exact ⟨t, ht, .of_unseen hu⟩
  | linkReset p => exact ⟨_, rfl, line (arbiterKept_linkReset p s)⟩
  | frameAbandoned p cause => exact ⟨_, rfl, line (arbiterKept_frameAbandoned p cause s)⟩
  | frameReceived p octets => exact ⟨_, rfl, line (arbiterKept_receiveOctets p _ s)⟩
  | abortFrame p => exact ⟨_, rfl, line (arbiterKept_abortFrame p s)⟩
  | replySent p =>
    obtain ⟨-, -, -, -, -, -, hsending⟩ := hports p
    exact ⟨_, rfl, line (arbiterKept_replySent hsending)⟩
  | frameStart p => exact ⟨_, rfl, line (arbiterKept_receiveOctet p _ s)⟩
  | octetInError p => exact ⟨_, rfl, line (.of_unseen (.modPort s p _ queueKept_octetInError))⟩
  | receiverResumes p => exact ⟨_, rfl, line (.of_unseen (.modPort s p _ queueKept_receiverResumes))⟩
  | postReading => exact ⟨_, rfl, arbiterKept_withGranted fun _ => arbiterKept_acceptReading⟩
  | classify => exact ⟨_, rfl, arbiterKept_classifyStage s⟩
  | evaluationCommit x =>
    cases x with
    | whole => exact ⟨_, rfl, arbiterKept_commitStage s⟩
    | part => exact ⟨_, rfl, arbiterKept_commitPart s⟩
  | sweepSlice x =>
    cases x with
    | whole => exact ⟨_, rfl, arbiterKept_sliceStage s⟩
    | part => exact ⟨_, rfl, arbiterKept_slicePart s⟩
  | enrolChart => exact ⟨_, rfl, arbiterKept_onChart fun c n pr he => arbiterKept_enrolGrant he n pr⟩
  | enrolChartCommit => exact ⟨_, rfl, arbiterKept_enrolCommit s⟩
  | withdrawChart => exact ⟨_, rfl, arbiterKept_onChart fun c n pr he => arbiterKept_withdrawGrant he n pr⟩
  | withdrawChartCommit => exact ⟨_, rfl, arbiterKept_withdrawCommit s⟩
  | suspendChart => exact ⟨_, rfl, arbiterKept_onChart fun c n pr he => arbiterKept_suspendTake he n pr⟩
  | resumeChart => exact ⟨_, rfl, arbiterKept_onChart fun c n pr he => arbiterKept_resumeTake he n pr⟩
  | restartChart => exact ⟨_, rfl, arbiterKept_onChart fun c n pr he => arbiterKept_changeEnrolled he n pr _⟩
  | setHold => exact ⟨_, rfl, arbiterKept_onChart fun c n pr he => arbiterKept_changeEnrolled he n pr _⟩
  | setInstrument => exact ⟨_, rfl, arbiterKept_withGranted fun c he => arbiterKept_instrumentTake he⟩
  | readChart => exact ⟨_, rfl, arbiterKept_onChart fun c _ _ he => .replied he rfl _⟩
  | restoreChart => exact ⟨_, rfl, arbiterKept_onChart fun c n pr he => arbiterKept_restoreGrant he n pr⟩
  | restoreChartCommit => exact ⟨_, rfl, arbiterKept_restoreCommit s⟩
  | stageLot p => exact ⟨_, rfl, owner fun o b => unseen_stageLotTake p o b s⟩
  | promoteLot p => exact ⟨_, rfl, owner fun o b => unseen_promoteLotTake p o b s⟩
  | retireLot p => exact ⟨_, rfl, owner fun o b => unseen_retireLotTake o b s⟩
  | readLot p => exact ⟨_, rfl, read fun o b => state_readLotTake p o b s⟩
  | listLots p => exact ⟨_, rfl, read fun o b => state_listLotsTake o b s⟩
  | stageProfile p => exact ⟨_, rfl, owner fun o b => unseen_stageProfileTake p o b s⟩
  | promoteProfile p => exact ⟨_, rfl, owner fun o b => unseen_promoteProfileTake p o b s⟩
  | readProfile p => exact ⟨_, rfl, read fun o b => state_readProfileTake p o b s⟩
  | writePattern p => exact ⟨_, rfl, owner fun o b => unseen_writePatternTake o b s⟩
  | readPattern p => exact ⟨_, rfl, read fun o b => state_readPatternTake o b s⟩
  | listNotices p => exact ⟨_, rfl, read fun o b => state_listNoticesTake o b s⟩
  | acknowledgeNotice p => exact ⟨_, rfl, owner fun o b => unseen_acknowledgeTake o b s⟩
  | closeDay p => exact ⟨_, rfl, arbiterKept_closeDay p s⟩
  | setCalendar p => exact ⟨_, rfl, owner fun o b => unseen_setCalendarTake o b s⟩
  | setLateWindow p => exact ⟨_, rfl, owner fun _ _ => .of_ports rfl rfl rfl rfl⟩
  | readCalendar p => exact ⟨_, rfl, read fun _ _ => rfl⟩
  | setWindow p => exact ⟨_, rfl, owner fun o b => unseen_setWindowTake o b s⟩
  | setPortOptions p => exact ⟨_, rfl, owner fun o b => unseen_setPortOptionsTake p o b s⟩
  | readFlags p => exact ⟨_, rfl, read fun _ _ => rfl⟩
  | clearFlags p => exact ⟨_, rfl, owner fun o b => unseen_clearFlagsTake p o b s⟩
  | setFlagEnables p => exact ⟨_, rfl, owner fun o b => unseen_setFlagEnablesTake p o b s⟩
  | identify p => exact ⟨_, rfl, read fun _ _ => rfl⟩

theorem quota_le_of_portsOk {s : State} (h : PortsOk s) (p : Port) : (s.port p).quota ≤ 8 := by
  obtain ⟨-, -, ⟨-, hquota⟩, -⟩ := h p
  exact hquota

/-- Settles O57: a grant decision follows whatever makes a requester appear or frees the engine, and each change of a
queue keeps the mark of the request in flight at its head. -/
theorem arbiterLeavesNoOneWaiting : Obligations.ArbiterLeavesNoOneWaiting := by
  intro s t hports harbiter h
  unfold step at h
  split at h
  · cases h
    exact harbiter
  · next c rest _ =>
    have hqueue : Unseen s { s with pending := rest } := .of_ports rfl rfl rfl rfl
    have hports' : PortsOk { s with pending := rest } := fun p => by
      rw [port_set_pending]
      exact hports p
    obtain ⟨u, hu, hkept⟩ := exec_arbiterKept c { s with pending := rest } hports'
    cases hu.symm.trans h
    have hsound : ArbiterSound s := (arbiterSound_iff s).2 ⟨quota_le_of_portsOk hports, harbiter⟩
    exact ((arbiterSound_iff _).1 (hkept.sound (hsound.unseen hqueue))).2

end Sys2Proof.Machine

namespace Sys2Proof.Machine

/-! ## A port in range (R156, R158, R162 to R164) -/

/-- A port in range, but for what it sends. -/
structure PortBounds (ps : PortState) : Prop where
  places : ps.places.length ≤ Config.queuePlaces
  refusals : ps.refusals.length ≤ Config.refusalPlaces
  quota : 1 ≤ ps.quota ∧ ps.quota ≤ 8
  window : ps.window.size ∈ windowSizes ∧ ps.window.base % ps.window.size = 0 ∧
    ps.window.base + ps.window.size ≤ Config.stores
  counters : ps.correctedHeaders ≤ Config.max16 ∧ ps.drops ≤ Config.max16
  bodies : ∀ pl ∈ ps.places, admitsLength pl.request.code pl.request.body.length = true

theorem portOk_iff (ps : PortState) : PortOk ps ↔ PortBounds ps ∧ SendingOk ps :=
  ⟨fun ⟨hplaces, hrefusals, hquota, hwindow, hcounters, hbodies, hsending⟩ =>
      ⟨⟨hplaces, hrefusals, hquota, hwindow, hcounters, hbodies⟩, hsending⟩,
    fun ⟨h, hsending⟩ => ⟨h.places, h.refusals, h.quota, h.window, h.counters, h.bodies, hsending⟩⟩

theorem PortOk.bounds {ps : PortState} (h : PortOk ps) : PortBounds ps := ((portOk_iff ps).1 h).1

theorem PortOk.sendingOk {ps : PortState} (h : PortOk ps) : SendingOk ps := ((portOk_iff ps).1 h).2

/-- The bounds rest on the requests of the places, not on how far they have come. -/
theorem PortBounds.of_requests {ps : PortState} (h : PortBounds ps) {l : List Place}
    (hl : l.map Place.request = ps.places.map Place.request) : PortBounds { ps with places := l } where
  places := by simpa using (congrArg List.length hl).trans_le (by simpa using h.places)
  refusals := h.refusals
  quota := h.quota
  window := h.window
  counters := h.counters
  bodies := by
    have hbodies : ∀ r ∈ l.map Place.request, admitsLength r.code r.body.length = true :=
      hl ▸ List.forall_mem_map.2 h.bodies
    exact List.forall_mem_map.1 hbodies

theorem map_request_setHead (pg : Progress) (l : List Place) :
    (setHead pg l).map Place.request = l.map Place.request := by
  induction l with
  | nil => rfl
  | cons y rest ih =>
    rcases y with ⟨r, _ | _ | rep⟩
    · rfl
    · rfl
    · exact congrArg (r :: ·) ih

theorem request_abortPlace (pl : Place) : (abortPlace pl).request = pl.request := by
  rcases pl with ⟨r, _ | _ | rep⟩ <;> rfl

/-! ## What a port sends (R158) -/

/-- A frame being sent stays in order when its refusal, or its reply, stays the oldest. -/
theorem SendingOk.of_oldest {x y : PortState} (h : SendingOk x) (hsending : y.sending = x.sending)
    (hrefusals : ∀ r, x.refusals.head? = some r → y.refusals.head? = some r)
    (hplaces : ∀ r, headReply x.places = some r → headReply y.places = some r) (hbusy : y.sending ≠ none) :
    SendingOk y := by
  unfold SendingOk at h ⊢
  rw [hsending] at hbusy ⊢
  split at h
  · next hnone => exact absurd hnone hbusy
  · obtain ⟨r, hr, rfl⟩ := Option.map_eq_some_iff.1 h
    rw [hrefusals r hr]
    rfl
  · obtain ⟨r, hr, rfl⟩ := Option.map_eq_some_iff.1 h
    rw [hplaces r hr]
    rfl

/-- The order of what is sent rests on the oldest reply, not on the other places. -/
theorem SendingOk.of_headReply {ps : PortState} (h : SendingOk ps) {l : List Place}
    (hl : headReply l = headReply ps.places) : SendingOk { ps with places := l } := by
  unfold SendingOk at h ⊢
  rw [← hl] at h
  exact h

/-- With LDO free, beginning the next frame leaves nothing to send unsent. -/
theorem sendingOk_startSending {ps : PortState} (h : ps.sending ≠ none → SendingOk ps) :
    SendingOk (startSending ps) := by
  unfold startSending
  split
  · next hs => exact h (by rw [hs]; exact Option.some_ne_none _)
  · next hs =>
    split
    · next hr =>
      show ps.refusals.head?.map replyLine = _
      rw [hr]
      rfl
    · next hr =>
      split
      · next hp =>
        show (headReply ps.places).map replyLine = _
        rw [hp]
        rfl
      · next hp =>
        have hnone : headReply ps.places = none := by
          unfold headReply
          split
          · next hl => exact absurd hl (hp _ _ _)
          · rfl
        unfold SendingOk
        rw [hs]
        exact ⟨hr, hnone⟩

theorem portOk_startSending {ps : PortState} (h : PortBounds ps) (hsending : ps.sending ≠ none → SendingOk ps) :
    PortOk (startSending ps) := by
  refine (portOk_iff _).2 ⟨?_, sendingOk_startSending hsending⟩
  rw [startSending_eq]
  exact ⟨h.places, h.refusals, h.quota, h.window, h.counters, h.bodies⟩

theorem headReply_setHead {l : List Place} {r : ReplyFrame} (pg : Progress) (h : headReply l = some r) :
    headReply (setHead pg l) = some r := by
  rcases l with _ | ⟨⟨req, _ | _ | rep⟩, rest⟩
  · cases h
  · cases h
  · cases h
  · exact h

theorem headReply_setHead_inFlight (l : List Place) : headReply (setHead .inFlight l) = headReply l := by
  rcases l with _ | ⟨⟨req, _ | _ | rep⟩, rest⟩ <;> rfl

theorem headReply_map_abortPlace {l : List Place} {r : ReplyFrame} (h : headReply l = some r) :
    headReply (l.map abortPlace) = some r := by
  rcases l with _ | ⟨⟨req, _ | _ | rep⟩, rest⟩
  · cases h
  · cases h
  · cases h
  · exact h

theorem headReply_append_waiting (l : List Place) (r : Request) :
    headReply (l ++ [⟨r, .waiting⟩]) = headReply l := by
  rcases l with _ | ⟨⟨req, _ | _ | rep⟩, rest⟩ <;> rfl

/-! ## The operations of a port keep it in range -/

namespace PortOk
variable {ps : PortState}

theorem answerPlaces (h : PortOk ps) (r : Request) (rep : Reply) : PortOk (answerPlaces r rep ps) :=
  portOk_startSending (h.bounds.of_requests (map_request_setHead _ _))
    (h.sendingOk.of_oldest rfl (fun _ => id) fun _ => headReply_setHead _)

theorem markHead (h : PortOk ps) : PortOk { ps with places := setHead .inFlight ps.places } :=
  (portOk_iff _).2 ⟨h.bounds.of_requests (map_request_setHead _ _),
    h.sendingOk.of_headReply (headReply_setHead_inFlight _)⟩

theorem abortQueue (h : PortOk ps) : PortOk (abortQueue ps) :=
  portOk_startSending
    (h.bounds.of_requests (by rw [List.map_map]; exact List.map_congr_left fun x _ => request_abortPlace x))
    (h.sendingOk.of_oldest rfl (fun _ => id) fun _ => headReply_map_abortPlace)

theorem countDrop (h : PortOk ps) : PortOk (countDrop ps) := by
  obtain ⟨hplaces, hrefusals, hquota, hwindow, ⟨hheaders, hdrops⟩, hrest⟩ := h
  exact ⟨hplaces, hrefusals, hquota, hwindow, ⟨hheaders, satInc16_le hdrops⟩, hrest⟩

theorem countCorrected (h : PortOk ps) : PortOk (countCorrected ps) := by
  obtain ⟨hplaces, hrefusals, hquota, hwindow, ⟨hheaders, hdrops⟩, hrest⟩ := h
  exact ⟨hplaces, hrefusals, hquota, hwindow, ⟨satInc16_le hheaders, hdrops⟩, hrest⟩

theorem leaveFrame (h : PortOk ps) (counted : Bool) : PortOk (leaveFrame counted ps) := by
  cases counted with
  | false => exact h
  | true => exact countCorrected (ps := { ps with receiver := .looking }) h

theorem abandonFrame (h : PortOk ps) (next : Receiver) : PortOk (abandonFrame next ps) :=
  countDrop (ps := { ps with receiver := next }) h

/-- A fifth refusal is never kept (R158). -/
theorem refuseFrame (h : PortOk ps) (tag : BitVec 2) (code : Octet) (st : Status) :
    PortOk (refuseFrame tag code st ps) := by
  unfold Machine.refuseFrame
  split
  · next hroom =>
    have hb := h.bounds
    refine portOk_startSending ⟨hb.places, ?_, hb.quota, hb.window, hb.counters, hb.bodies⟩
      (h.sendingOk.of_oldest rfl (fun r hr => ?_) fun _ => id)
    · rw [List.length_append]
      exact hroom
    · rw [List.head?_append, hr]
      rfl
  · exact h.countDrop

/-- An accepted request has a free place and a body of a length that R172 gives its code (R156). -/
theorem accept (h : PortOk ps) {r : Request} (hroom : ps.places.length < Config.queuePlaces)
    (hbody : admitsLength r.code r.body.length = true) :
    PortOk { ps with places := ps.places ++ [⟨r, .waiting⟩] } := by
  have hb := h.bounds
  refine (portOk_iff _).2 ⟨⟨?_, hb.refusals, hb.quota, hb.window, hb.counters, ?_⟩,
    h.sendingOk.of_headReply (headReply_append_waiting _ r)⟩
  · rw [List.length_append]
    exact hroom
  · exact List.forall_mem_append.2 ⟨hb.bodies, List.forall_mem_singleton.2 hbody⟩

theorem replySent (h : PortOk ps) : PortOk (replySent ps) := by
  have hb := h.bounds
  unfold Machine.replySent
  split
  · exact portOk_startSending
      ⟨hb.places, (List.tail_sublist _).length_le.trans hb.refusals, hb.quota, hb.window, hb.counters, hb.bodies⟩
      fun hfree => absurd rfl hfree
  · exact portOk_startSending
      ⟨(List.tail_sublist _).length_le.trans hb.places, hb.refusals, hb.quota, hb.window, hb.counters,
        fun pl hpl => hb.bodies pl (List.mem_of_mem_tail hpl)⟩
      fun hfree => absurd rfl hfree
  · exact h

theorem octetInError (h : PortOk ps) : PortOk (octetInError ps) := by
  unfold Machine.octetInError
  split
  · exact h
  · exact h.abandonFrame _
  · exact h

theorem receiverResumes (h : PortOk ps) : PortOk (receiverResumes ps) := by
  unfold Machine.receiverResumes
  split <;> exact h

/-- A link reset empties the port and keeps its window and its counters (R161). -/
theorem linkReset (h : PortOk ps) : PortOk (linkResetPort ps) :=
  (portOk_iff _).2 ⟨⟨Nat.zero_le _, Nat.zero_le _, (by decide : 1 ≤ 2 ∧ 2 ≤ 8), h.bounds.window, h.bounds.counters,
    fun _ hpl => absurd hpl List.not_mem_nil⟩, rfl, rfl⟩

end PortOk

end Sys2Proof.Machine

namespace Sys2Proof.Machine

/-! ## What a step makes of the ports

The relation below asks nothing of the engine, the arbiter or the records, so work that touches neither the ports nor
the queue of commands keeps it as it stands. -/

/-- The queue of commands is left alone, and each port in range stays so. -/
structure PortsKept (s t : State) : Prop where
  pending : t.pending = s.pending
  port : ∀ p, PortOk (s.port p) → PortOk (t.port p)

namespace PortsKept
variable {s t u : State}

theorem refl (s : State) : PortsKept s s := ⟨rfl, fun _ => id⟩

theorem trans (h : PortsKept s t) (k : PortsKept t u) : PortsKept s u :=
  ⟨k.pending.trans h.pending, fun p => k.port p ∘ h.port p⟩

theorem of_ports (hq : t.pending = s.pending) (hp : t.ports = s.ports) : PortsKept s t :=
  ⟨hq, fun p => by rw [port_of_ports hp]; exact id⟩

/-- Work that ends with another engine, arbiter or record. -/
theorem then_same (h : PortsKept s t) (hq : u.pending = t.pending := by rfl) (hp : u.ports = t.ports := by rfl) :
    PortsKept s u := h.trans (of_ports hq hp)

/-- Work on a state whose engine, arbiter or records have been changed first. -/
theorem after_same (k : PortsKept t u) (hq : t.pending = s.pending := by rfl) (hp : t.ports = s.ports := by rfl) :
    PortsKept s u := (of_ports hq hp).trans k

theorem modPort (s : State) (p : Port) {f : PortState → PortState}
    (hf : PortOk (s.port p) → PortOk (f (s.port p)) := by exact id) : PortsKept s (s.modPort p f) where
  pending := pending_modPort s p f
  port q := by
    rw [port_modPort]
    split
    · next hq =>
      subst hq
      exact hf
    · exact id

theorem raiseAll (f : Flag) (s : State) : PortsKept s (raiseAll f s) :=
  ⟨rfl, fun p => by rw [port_raiseAll]; exact id⟩

theorem setChart (s : State) (n : Nat) (pr : Process) (c : Chart) : PortsKept s (s.setChart n pr c) :=
  of_ports rfl rfl

theorem modChart (s : State) (n : Nat) (pr : Process) (f : Chart → Chart) : PortsKept s (s.modChart n pr f) :=
  of_ports rfl rfl

theorem setTable (s : State) (pr : Process) (x : ProcTable) : PortsKept s (s.setTable pr x) :=
  of_ports (pending_setTable s pr x) (ports_setTable s pr x)

/-- What every part keeps, the whole keeps. -/
theorem iterate {f : State → State} (h : ∀ s, PortsKept s (f s)) (k : Nat) (s : State) :
    PortsKept s (Nat.iterate f k s) := by
  induction k generalizing s with
  | zero => exact refl s
  | succ k ih => exact (h s).trans (ih (f s))

end PortsKept

/-! ## Grants and answers -/

theorem portsKept_grantTo (q : Requester) (n : Nat) (s : State) : PortsKept s (grantTo q n s) := by
  unfold grantTo
  split
  · split
    · exact (PortsKept.modPort s _ PortOk.markHead).then_same
    · exact .refl s
  · exact .of_ports rfl rfl

theorem portsKept_arbitrate (s : State) : PortsKept s (arbitrate s) := by
  rcases arbitrate_cases s with ⟨hsame, -⟩ | ⟨q, -, -, hgrant⟩
  · rw [hsame]
    exact .refl s
  · rw [hgrant]
    exact portsKept_grantTo q 1 s

theorem portsKept_burstDecision (p : Port) (s : State) : PortsKept s (burstDecision p s) := by
  unfold burstDecision passOn
  split
  · exact portsKept_grantTo _ _ s
  · exact (portsKept_arbitrate _).after_same

theorem portsKept_finishOperation (c : Caller) (rep : Reply) (s : State) :
    PortsKept s (finishOperation c rep s) := by
  have hfreed : PortsKept s { s with engine := none } := .of_ports rfl rfl
  refine PortsKept.trans ?_ (portsKept_burstDecision c.port (operationLeft c rep s))
  unfold operationLeft
  split
  · exact hfreed
  · exact hfreed.trans (.modPort _ _ fun h => h.answerPlaces _ _)

/-- The end of an operation after work of the engine. -/
theorem PortsKept.finished {s t : State} (h : PortsKept s t) (c : Caller) (rep : Reply) :
    PortsKept s (finishOperation c rep t) := h.trans (portsKept_finishOperation c rep t)

theorem portsKept_serveOwner {code : RequestCode} {p : Port} {s : State}
    {take : ByteOrder → List Octet → State → Reply × State} (h : ∀ o b, PortsKept s (take o b s).2) :
    PortsKept s (serveOwner code p take s) := by
  unfold serveOwner
  split
  · split
    · exact ((h _ _).trans (.modPort _ p fun hp => hp.answerPlaces _ _)).trans (portsKept_arbitrate _)
    · exact .refl s
  · exact .refl s

/-! ## Offers, evaluations and visits -/

theorem portsKept_takeOffer (o : Offer) (s : State) : PortsKept s (takeOffer o s).2 := by
  have hnotices : ∀ q, PortsKept s { s with notices := q } := fun q => .of_ports rfl rfl
  unfold takeOffer
  dsimp only
  split
  · exact (hnotices _).trans (.raiseAll _ _)
  · split
    · split
      · exact (hnotices _).trans ((PortsKept.raiseAll _ _).trans (.raiseAll _ _))
      · exact (hnotices _).trans (.raiseAll _ _)
    · exact .raiseAll _ _

theorem portsKept_offerOrOwe (o : Offer) (s : State) : PortsKept s (offerOrOwe o s).2 := by
  by_cases h : (takeOffer o s).1 = .refused
  · rw [offerOrOwe_refused h]
    exact (portsKept_takeOffer o s).then_same
  · rw [offerOrOwe_taken h]
    exact portsKept_takeOffer o s

theorem portsKept_countDown (pr : Process) (n : Nat) (s : State) : PortsKept s (countDown pr n s) := by
  unfold countDown
  split
  · exact .refl s
  · exact .setTable s pr _

theorem portsKept_joinLot {pr : Process} {n : Nat} {s t : State} (h : joinLot pr n s = some t) : PortsKept s t := by
  unfold joinLot at h
  split at h
  · cases h
    exact .refl s
  · split at h
    · cases h
      exact .setTable s pr _
    · cases h

theorem portsKept_commitWrite {ev : Evaluation} {res : Result} {s t : State} {offers : List Offer}
    (h : commitWrite ev res s = some (offers, t)) : PortsKept s t := by
  unfold commitWrite moveLot at h
  dsimp only at h
  split at h
  · next hmove =>
    cases h
    refine PortsKept.trans ?_ (.setChart ..)
    split at hmove
    · cases hmove
      split
      · exact .refl s
      · exact (portsKept_countDown _ _ s).trans (.setTable ..)
    · cases hmove
  · cases h

theorem portsKept_evalPart (st : EvalStage) (s : State) : PortsKept s (evalPart st s).2 := by
  cases st with
  | computed ev => exact .refl s
  | classified ev res =>
    unfold evalPart
    dsimp only
    split
    · next hw => exact portsKept_commitWrite hw
    · exact .of_ports rfl rfl
  | offering ev res l id owed =>
    cases l with
    | nil => exact .refl s
    | cons o rest => exact portsKept_offerOrOwe o s
  | parking rd => exact portsKept_offerOrOwe _ s
  | ending rep => exact .refl s

theorem portsKept_owedStep (n : Nat) (pr : Process) (cls : NoticeClass) (s : State) :
    PortsKept s (owedStep n pr cls s) := by
  unfold owedStep
  dsimp only
  split
  · split
    · exact .modChart ..
    · next o _ =>
      have h := portsKept_takeOffer o s
      generalize takeOffer o s = out at h ⊢
      rcases out with ⟨_ | _ | _, t⟩
      · exact h.trans (.modChart ..)
      · exact h.trans (.modChart ..)
      · exact h
  · exact .refl s

theorem portsKept_recheck (rd : Reading) (lot : LotRecord) (profile : Profile) (s : State) :
    PortsKept s (recheck rd lot profile s).2 := by
  unfold recheck
  split
  · exact .of_ports rfl rfl
  · exact .refl s

theorem portsKept_countMiss (n : Nat) (pr : Process) (s : State) : PortsKept s (countMiss n pr s).2 := by
  unfold countMiss
  dsimp only
  split
  · exact .setChart ..
  · exact .refl s

theorem portsKept_visitPart (n : Nat) (pr : Process) (st : VisitStage) (s : State) :
    PortsKept s (visitPart n pr st s).2 := by
  cases st with
  | arrive =>
    unfold visitPart
    dsimp only
    split
    · exact .refl s
    · split
      · exact .refl s
      · split <;> exact .refl s
  | snapped rd lot profile =>
    have h := portsKept_recheck rd lot profile s
    unfold visitPart
    dsimp only
    generalize recheck rd lot profile s = out at h ⊢
    rcases out with ⟨_ | ev, t⟩ <;> exact h
  | retry st =>
    have h : PortsKept s (retryPart st s).2 := (retryPart_eq st s).1 ▸ portsKept_evalPart st s
    unfold visitPart
    dsimp only
    generalize retryPart st s = out at h ⊢
    rcases out with ⟨_ | st', t⟩ <;> exact h
  | miss =>
    have h := portsKept_countMiss n pr s
    unfold visitPart
    dsimp only
    generalize countMiss n pr s = out at h ⊢
    rcases out with ⟨_ | m, t⟩ <;> exact h
  | overdue missed => exact portsKept_offerOrOwe _ s
  | owed cls => cases cls <;> exact portsKept_owedStep ..

/-! ## Readings and the sweep -/

theorem portsKept_withGranted {code : RequestCode} {f : Caller → State → State} {s : State}
    (h : ∀ c, PortsKept s (f c s)) : PortsKept s (withGranted code f s) := by
  unfold withGranted
  split
  · split
    · exact h _
    · exact .refl s
  · exact .refl s

theorem portsKept_dayRefusal {rd : Reading} {day window : Nat} {s : State} {out : Reply × State}
    (h : dayRefusal rd day window s = some out) : PortsKept s out.2 := by
  unfold dayRefusal at h
  dsimp only at h
  split at h
  · cases h
    exact .refl s
  · split at h
    · cases h
      exact .refl s
    · split at h
      · cases h
        exact .of_ports rfl rfl
      · split at h <;> cases h
        exact .refl s

theorem portsKept_acceptReading (c : Caller) (s : State) : PortsKept s (acceptReading c s) := by
  unfold acceptReading acceptDay acceptLot finishWith
  split
  · exact portsKept_finishOperation ..
  · split
    · next hout => exact (portsKept_dayRefusal hout).finished ..
    · split
      · exact ((PortsKept.modChart ..).trans (portsKept_offerOrOwe _ (fillSlot _ s))).finished ..
      · exact .of_ports rfl rfl

theorem portsKept_classifyStage (s : State) : PortsKept s (classifyStage s) := by
  unfold classifyStage
  split
  · exact .of_ports rfl rfl
  · exact .refl s

theorem portsKept_commitPart (s : State) : PortsKept s (commitPart s) := by
  unfold commitPart
  split
  · exact .refl s
  · exact portsKept_finishOperation ..
  · exact (portsKept_evalPart _ s).then_same
  · exact .refl s

theorem portsKept_commitStage (s : State) : PortsKept s (commitStage s) := by
  obtain ⟨k, hk⟩ := exists_iterate_commitPart_eq s
  exact hk ▸ .iterate portsKept_commitPart k s

theorem portsKept_endSlice (s : State) : PortsKept s (endSlice s) := by
  refine PortsKept.trans ?_ (portsKept_arbitrate _)
  unfold advanceSweep
  dsimp only
  split
  · exact .of_ports rfl rfl
  · exact (PortsKept.raiseAll _ _).after_same

theorem portsKept_slicePart (s : State) : PortsKept s (slicePart s) := by
  unfold slicePart
  split
  · next i st _ =>
    split
    · have h := portsKept_visitPart (sliceStore s i) (sliceProcess i) st s
      generalize visitPart (sliceStore s i) (sliceProcess i) st s = out at h ⊢
      rcases out with ⟨_ | st', t⟩ <;> exact h.then_same
    · exact portsKept_endSlice s
  · exact .refl s

theorem portsKept_sliceStage (s : State) : PortsKept s (sliceStage s) := by
  obtain ⟨k, hk⟩ := exists_iterate_slicePart_eq s
  exact hk ▸ .iterate portsKept_slicePart k s

/-! ## Chart edits -/

theorem portsKept_onChart {code : RequestCode} {f : Caller → Nat → Process → State → State} {s : State}
    (h : ∀ c n pr, PortsKept s (f c n pr s)) : PortsKept s (withGranted code (fun c => onChart c (f c)) s) := by
  refine portsKept_withGranted fun c => ?_
  unfold onChart
  split
  · exact h c _ _
  · exact portsKept_finishOperation ..

section Edits
variable (c : Caller) (n : Nat) (pr : Process) (s : State)

theorem portsKept_edited (rep : Reply) (f : Chart → Chart) :
    PortsKept s (finishOperation c rep (s.modChart n pr f)) := (PortsKept.modChart ..).finished ..

theorem portsKept_enrolGrant : PortsKept s (enrolGrant c n pr s) := by
  unfold enrolGrant
  split
  · exact .of_ports rfl rfl
  · exact portsKept_finishOperation ..

theorem portsKept_withdrawGrant : PortsKept s (withdrawGrant c n pr s) := by
  unfold withdrawGrant
  split
  · exact portsKept_finishOperation ..
  · exact .of_ports rfl rfl

theorem portsKept_restoreGrant : PortsKept s (restoreGrant c n pr s) := by
  unfold restoreGrant
  dsimp only
  split
  · exact portsKept_finishOperation ..
  · split
    · exact portsKept_finishOperation ..
    · split
      · exact .of_ports rfl rfl
      · exact portsKept_finishOperation ..

theorem portsKept_suspendTake : PortsKept s (suspendTake c n pr s) := by
  unfold suspendTake
  split
  · exact portsKept_finishOperation ..
  · exact portsKept_edited ..
  · exact portsKept_edited ..
  · exact portsKept_finishOperation ..

theorem portsKept_resumeTake : PortsKept s (resumeTake c n pr s) := by
  have hresume : ∀ restart, PortsKept s (resumeWith c restart n pr s) := fun restart => by
    unfold resumeWith
    split
    · exact portsKept_finishOperation ..
    · exact portsKept_edited ..
    · exact portsKept_finishOperation ..
    · exact portsKept_finishOperation ..
  unfold resumeTake
  split
  · exact hresume false
  · exact hresume true
  · exact portsKept_finishOperation ..

theorem portsKept_changeEnrolled (f : Chart → Chart) : PortsKept s (changeEnrolled c f n pr s) := by
  unfold changeEnrolled
  split
  · exact portsKept_finishOperation ..
  · exact portsKept_edited ..

theorem portsKept_instrumentTake : PortsKept s (instrumentTake c s) := by
  unfold instrumentTake
  dsimp only
  split
  · split
    · exact (portsKept_finishOperation ..).after_same
    · exact portsKept_finishOperation ..
  · exact portsKept_finishOperation ..

end Edits

theorem portsKept_enrolCommit (s : State) : PortsKept s (enrolCommit s) := by
  unfold enrolCommit
  split
  · split
    · next hjoin => exact ((portsKept_joinLot hjoin).trans (.modChart ..)).finished ..
    · exact (portsKept_finishOperation ..).after_same
  · exact .refl s

theorem portsKept_restoreCommit (s : State) : PortsKept s (restoreCommit s) := by
  unfold restoreCommit
  split
  · split
    · next hjoin => exact ((portsKept_joinLot hjoin).trans (.setChart ..)).finished ..
    · exact (portsKept_finishOperation ..).after_same
  · exact .refl s

theorem portsKept_withdrawCommit (s : State) : PortsKept s (withdrawCommit s) := by
  unfold withdrawCommit
  split
  · exact (portsKept_countDown _ _ s).then_same.finished ..
  · exact .refl s

/-! ## The line (R152 to R161) -/

theorem portsKept_onLine {f : State → State} {s : State} (h : PortsKept s (f s)) : PortsKept s (onLine f s) := by
  unfold onLine
  split
  · exact .refl s
  · exact h

/-- Steps 6 to 9 of R156 leave a request that is accepted with a free place and an admitted length. -/
theorem refusalOf_eq_ok {ps : PortState} {code : Octet} {body : List Octet} {k : RequestCode}
    (h : refusalOf ps code body = .ok k) :
    ps.places.length < Config.queuePlaces ∧ admitsLength k body.length = true := by
  unfold refusalOf at h
  split at h
  · cases h
  · split at h
    · cases h
    · split at h
      · cases h
      · next hlength =>
        split at h
        · next hroom =>
          cases h
          exact ⟨hroom, Bool.eq_true_of_not_eq_false hlength⟩
        · cases h

theorem portsKept_acceptRequest (p : Port) (tag : BitVec 2) (code : Octet) (body : List Octet) (s : State) :
    PortsKept s (acceptRequest p tag code body s) := by
  unfold acceptRequest
  split
  · exact .modPort s p fun h => h.refuseFrame ..
  · next k hk =>
    obtain ⟨hroom, hbody⟩ := refusalOf_eq_ok hk
    exact (PortsKept.modPort s p fun h => h.accept (r := ⟨tag, k, body⟩) hroom hbody).trans (portsKept_arbitrate _)

theorem portsKept_endFrame (p : Port) (c : Content) (s : State) : PortsKept s (endFrame p c s) := by
  unfold endFrame
  dsimp only
  refine PortsKept.trans (.modPort s p fun h => h.leaveFrame (decodeContent c).1) ?_
  split
  · exact .modPort _ p PortOk.countDrop
  · exact portsKept_acceptRequest p _ _ _ _
  · exact .modPort _ p PortOk.abortQueue

theorem portsKept_receiveOctet (p : Port) (o : Octet) (s : State) : PortsKept s (receiveOctet p o s) := by
  unfold receiveOctet
  split
  · split
    · exact .modPort s p
    · exact .refl s
  · exact .refl s
  · split
    · exact .modPort s p fun h => h.abandonFrame _
    · split
      · split
        · exact .modPort s p
        · exact .modPort s p fun h => h.abandonFrame _
      · split
        · exact portsKept_endFrame p _ s
        · split <;> exact .modPort s p

theorem portsKept_receiveOctets (p : Port) (octets : List Octet) (s : State) :
    PortsKept s (receiveOctets p octets s) := by
  induction octets generalizing s with
  | nil => exact .refl s
  | cons o rest ih => exact (portsKept_receiveOctet p o s).trans (ih _)

theorem portsKept_frameAbandoned (p : Port) (cause : AbandonCause) (s : State) :
    PortsKept s (frameAbandoned p cause s) := by
  unfold frameAbandoned
  split
  · exact .modPort s p fun h => h.abandonFrame _
  · exact .refl s

theorem portsKept_abortFrame (p : Port) (s : State) : PortsKept s (abortFrame p s) := by
  unfold abortFrame
  split
  · exact .modPort s p fun h => PortOk.abortQueue (ps := { s.port p with receiver := .looking }) h
  · exact .refl s

/-! ## Resets (R151, R161, R169) -/

theorem portsKept_deviceReset (s : State) : PortsKept s (deviceResetState s) :=
  ⟨rfl, fun p _ => by rw [port_deviceResetState]; exact portOk_reset⟩

theorem portsKept_resetRelease (a b c : Rights) (s : State) :
    ∃ t, execResetRelease a b c s = .next t ∧ PortsKept s t := by
  refine ⟨_, rfl, ?_⟩
  split
  · exact ⟨rfl, fun p => by cases p <;> exact id⟩
  · exact .refl s

theorem portsKept_linkReset (p : Port) (s : State) : PortsKept s (linkReset p s) := by
  by_cases h : (s.port p).receiver = .waitHigh true
  · rw [linkReset_again h]
    exact .refl s
  · rw [linkReset_first h]
    exact (PortsKept.modPort s p PortOk.linkReset).then_same

end Sys2Proof.Machine

namespace Sys2Proof.Machine

/-! ## Windows and options (R163, R164) -/

theorem portOfNumber_portNumber (q : Port) : portOfNumber (portNumber q) = some q := by cases q <;> rfl

theorem portOfNumber_eq_none {n : Nat} (h : 2 < n) : portOfNumber n = none := by
  obtain ⟨m, rfl⟩ := Nat.exists_eq_add_of_le' h
  rfl

theorem mem_windowSizes (size : Nat) : size ∈ windowSizes ↔
    size = 16 ∨ size = 32 ∨ size = 64 ∨ size = 128 ∨ size = 256 ∨ size = 512 ∨ size = 1024 := by
  simp [windowSizes]

/-- Every window size divides the number of stores (R163). -/
theorem windowSize_dvd_stores {size : Nat} (h : size ∈ windowSizes) : size ∣ Config.stores := by
  rcases (mem_windowSizes size).1 h with rfl | rfl | rfl | rfl | rfl | rfl | rfl <;> decide

/-- An aligned base is the multiple of the size at or below the carried base, and its window stays inside the stores
(R163). -/
theorem alignBase_bounds {base size : Nat} (hsize : size ∈ windowSizes) (hbase : base < Config.stores) :
    alignBase base size % size = 0 ∧ alignBase base size ≤ base ∧ base < alignBase base size + size ∧
      alignBase base size + size ≤ Config.stores := by
  obtain ⟨k, hk⟩ := windowSize_dvd_stores hsize
  have hpos : 0 < size := Nat.pos_of_dvd_of_pos ⟨k, hk⟩ (by decide)
  have halign : alignBase base size = size * (base / size) := by
    unfold alignBase
    have := Nat.div_add_mod base size
    omega
  have hdiv : base / size + 1 ≤ k := Nat.div_lt_of_lt_mul (hk ▸ hbase)
  refine ⟨halign ▸ Nat.mul_mod_right _ _, Nat.sub_le _ _, ?_, ?_⟩
  · have := Nat.mod_lt base hpos
    unfold alignBase
    omega
  · rw [halign, hk]
    exact Nat.mul_le_mul_left size hdiv

theorem PortOk.setWindow {ps : PortState} (h : PortOk ps) {base size : Nat} (hsize : size ∈ windowSizes)
    (hbase : base < Config.stores) : PortOk { ps with window := ⟨alignBase base size, size⟩ } := by
  obtain ⟨hplaces, hrefusals, hquota, -, hrest⟩ := h
  obtain ⟨hmultiple, -, -, hinside⟩ := alignBase_bounds hsize hbase
  exact ⟨hplaces, hrefusals, hquota, ⟨hsize, hmultiple, hinside⟩, hrest⟩

theorem PortOk.setOptions {ps : PortState} (h : PortOk ps) (order : ByteOrder) {q : Nat} (hq : 1 ≤ q ∧ q ≤ 8) :
    PortOk { ps with byteOrder := order, quota := q } := by
  obtain ⟨hplaces, hrefusals, -, hrest⟩ := h
  exact ⟨hplaces, hrefusals, hq, hrest⟩

/-! ## Owner work -/

section Takes
variable (p : Port) (o : ByteOrder) (b : List Octet) (s : State)

theorem portsKept_stageLotTake : PortsKept s (stageLotTake p o b s).2 := by
  unfold stageLotTake
  split
  · exact .refl s
  · split
    · exact .refl s
    · dsimp only
      exact .modPort s p

theorem portsKept_promoteLotTake : PortsKept s (promoteLotTake p o b s).2 := by
  unfold promoteLotTake promoteStaged
  split
  · exact .refl s
  · dsimp only
    split
    · exact .refl s
    · split
      · exact .refl s
      · split
        · exact .refl s
        · exact (PortsKept.setTable s _ _).trans (.raiseAll _ _)

theorem portsKept_retireLotTake : PortsKept s (retireLotTake o b s).2 := by
  unfold retireLotTake
  split
  · exact .refl s
  · split
    · exact .refl s
    · split
      · exact .refl s
      · exact (PortsKept.setTable s _ _).trans (.raiseAll _ _)

theorem portsKept_stageProfileTake : PortsKept s (stageProfileTake p o b s).2 := by
  unfold stageProfileTake
  split
  · exact .refl s
  · dsimp only
    exact .modPort s p

theorem portsKept_promoteProfileTake : PortsKept s (promoteProfileTake p o b s).2 := by
  unfold promoteProfileTake promoteStagedProfile
  split
  · exact .refl s
  · dsimp only
    split
    · exact .refl s
    · split
      · exact .refl s
      · split
        · exact (PortsKept.setTable s _ _).trans (.raiseAll _ _)
        · exact .refl s

theorem portsKept_writePatternTake : PortsKept s (writePatternTake o b s).2 := by
  unfold writePatternTake
  split
  · split
    · exact .refl s
    · split
      · exact (PortsKept.raiseAll _ _).after_same
      · exact .refl s
  · exact .refl s

theorem portsKept_acknowledgeTake : PortsKept s (acknowledgeTake o b s).2 := by
  unfold acknowledgeTake
  dsimp only
  split
  · exact .refl s
  · split
    · exact .refl s
    · split
      · exact .of_ports rfl rfl
      · exact .refl s

theorem portsKept_closeDayTake : PortsKept s (closeDayTake o b s).2 := by
  unfold closeDayTake
  split
  · exact .refl s
  · split
    · exact (portsKept_arbitrate _).after_same
    · exact .refl s

theorem portsKept_setCalendarTake : PortsKept s (setCalendarTake o b s).2 := by
  unfold setCalendarTake
  split
  · exact .refl s
  · split
    · exact .refl s
    · exact .of_ports rfl rfl

theorem portsKept_setWindowTake : PortsKept s (setWindowTake o b s).2 := by
  unfold setWindowTake
  dsimp only
  split
  · exact .refl s
  · split
    · next hcarried =>
      dsimp only
      exact .modPort s _ fun h => h.setWindow hcarried.1 hcarried.2
    · exact .refl s

theorem portsKept_setPortOptionsTake : PortsKept s (setPortOptionsTake p o b s).2 := by
  unfold setPortOptionsTake
  split
  · exact .refl s
  · dsimp only
    refine .modPort s p fun h => h.setOptions _ ?_
    rw [clampNat_eq_max_min (by decide)]
    omega

theorem portsKept_changeFlags {f : PortState → PortState} (hf : PortOk (s.port p) → PortOk (f (s.port p))) :
    PortsKept s (changeFlags p f s).2 := .modPort s p hf

end Takes

/-! ## Every step -/

/-- Every command answers a next state, leaves the queue of commands alone and keeps the ports in range. -/
theorem exec_portsKept (i : Instr) (s : State) : ∃ t, exec i s = .next t ∧ PortsKept s t := by
  have owner : ∀ {code : RequestCode} {p : Port} {take : ByteOrder → List Octet → State → Reply × State},
      (∀ o b, PortsKept s (take o b s).2) → PortsKept s (serveOwner code p take s) := portsKept_serveOwner
  have read : ∀ {code : RequestCode} {p : Port} {take : ByteOrder → List Octet → State → Reply × State},
      (∀ o b, (take o b s).2 = s) → PortsKept s (serveOwner code p take s) :=
    fun h => owner fun o b => (h o b).symm ▸ .refl s
  have line : ∀ {f : State → State}, PortsKept s (f s) → PortsKept s (onLine f s) := portsKept_onLine
  cases i with
  | deviceReset => exact ⟨_, rfl, portsKept_deviceReset s⟩
  | resetRelease a b c => exact portsKept_resetRelease a b c s
  | linkReset p => exact ⟨_, rfl, line (portsKept_linkReset p s)⟩
  | frameAbandoned p cause => exact ⟨_, rfl, line (portsKept_frameAbandoned p cause s)⟩
  | frameReceived p octets => exact ⟨_, rfl, line (portsKept_receiveOctets p _ s)⟩
  | abortFrame p => exact ⟨_, rfl, line (portsKept_abortFrame p s)⟩
  | replySent p => exact ⟨_, rfl, line (.modPort s p PortOk.replySent)⟩
  | frameStart p => exact ⟨_, rfl, line (portsKept_receiveOctet p _ s)⟩
  | octetInError p => exact ⟨_, rfl, line (.modPort s p PortOk.octetInError)⟩
  | receiverResumes p => exact ⟨_, rfl, line (.modPort s p PortOk.receiverResumes)⟩
  | postReading => exact ⟨_, rfl, portsKept_withGranted fun c => portsKept_acceptReading c s⟩
  | classify => exact ⟨_, rfl, portsKept_classifyStage s⟩
  | evaluationCommit x =>
    cases x with
    | whole => exact ⟨_, rfl, portsKept_commitStage s⟩
    | part => exact ⟨_, rfl, portsKept_commitPart s⟩
  | sweepSlice x =>
    cases x with
    | whole => exact ⟨_, rfl, portsKept_sliceStage s⟩
    | part => exact ⟨_, rfl, portsKept_slicePart s⟩
  | enrolChart => exact ⟨_, rfl, portsKept_onChart fun c n pr => portsKept_enrolGrant c n pr s⟩
  | enrolChartCommit => exact ⟨_, rfl, portsKept_enrolCommit s⟩
  | withdrawChart => exact ⟨_, rfl, portsKept_onChart fun c n pr => portsKept_withdrawGrant c n pr s⟩
  | withdrawChartCommit => exact ⟨_, rfl, portsKept_withdrawCommit s⟩
  | suspendChart => exact ⟨_, rfl, portsKept_onChart fun c n pr => portsKept_suspendTake c n pr s⟩
  | resumeChart => exact ⟨_, rfl, portsKept_onChart fun c n pr => portsKept_resumeTake c n pr s⟩
  | restartChart => exact ⟨_, rfl, portsKept_onChart fun c n pr => portsKept_changeEnrolled c n pr s _⟩
  | setHold => exact ⟨_, rfl, portsKept_onChart fun c n pr => portsKept_changeEnrolled c n pr s _⟩
  | setInstrument => exact ⟨_, rfl, portsKept_withGranted fun c => portsKept_instrumentTake c s⟩
  | readChart => exact ⟨_, rfl, portsKept_onChart fun c _ _ => portsKept_finishOperation c _ s⟩
  | restoreChart => exact ⟨_, rfl, portsKept_onChart fun c n pr => portsKept_restoreGrant c n pr s⟩
  | restoreChartCommit => exact ⟨_, rfl, portsKept_restoreCommit s⟩
  | stageLot p => exact ⟨_, rfl, owner fun o b => portsKept_stageLotTake p o b s⟩
  | promoteLot p => exact ⟨_, rfl, owner fun o b => portsKept_promoteLotTake p o b s⟩
  | retireLot p => exact ⟨_, rfl, owner fun o b => portsKept_retireLotTake o b s⟩
  | readLot p => exact ⟨_, rfl, read fun o b => state_readLotTake p o b s⟩
  | listLots p => exact ⟨_, rfl, read fun o b => state_listLotsTake o b s⟩
  | stageProfile p => exact ⟨_, rfl, owner fun o b => portsKept_stageProfileTake p o b s⟩
  | promoteProfile p => exact ⟨_, rfl, owner fun o b => portsKept_promoteProfileTake p o b s⟩
  | readProfile p => exact ⟨_, rfl, read fun o b => state_readProfileTake p o b s⟩
  | writePattern p => exact ⟨_, rfl, owner fun o b => portsKept_writePatternTake o b s⟩
  | readPattern p => exact ⟨_, rfl, read fun o b => state_readPatternTake o b s⟩
  | listNotices p => exact ⟨_, rfl, read fun o b => state_listNoticesTake o b s⟩
  | acknowledgeNotice p => exact ⟨_, rfl, owner fun o b => portsKept_acknowledgeTake o b s⟩
  | closeDay p => exact ⟨_, rfl, owner fun o b => portsKept_closeDayTake o b s⟩
  | setCalendar p => exact ⟨_, rfl, owner fun o b => portsKept_setCalendarTake o b s⟩
  | setLateWindow p => exact ⟨_, rfl, owner fun _ _ => .of_ports rfl rfl⟩
  | readCalendar p => exact ⟨_, rfl, read fun _ _ => rfl⟩
  | setWindow p => exact ⟨_, rfl, owner fun o b => portsKept_setWindowTake o b s⟩
  | setPortOptions p => exact ⟨_, rfl, owner fun o b => portsKept_setPortOptionsTake p o b s⟩
  | readFlags p => exact ⟨_, rfl, read fun _ _ => rfl⟩
  | clearFlags p => exact ⟨_, rfl, owner fun _ _ => portsKept_changeFlags p s id⟩
  | setFlagEnables p => exact ⟨_, rfl, owner fun _ _ => portsKept_changeFlags p s id⟩
  | identify p => exact ⟨_, rfl, read fun _ _ => rfl⟩

/-- Settles O55: each operation of a port keeps its ranges, and wherever a reply or a refusal can become the oldest
LDO is looked at again. -/
theorem portsStayInRange : Obligations.PortsStayInRange := by
  intro s t hports h
  unfold step at h
  split at h
  · cases h
    exact hports
  · next c rest _ =>
    obtain ⟨u, hu, hkept⟩ := exec_portsKept c { s with pending := rest }
    cases hu.symm.trans h
    exact fun p => hkept.port p (by rw [port_set_pending]; exact hports p)

/-- Settles O2: no meaning faults or refuses, and no operation of the part reaches the queue of commands. -/
theorem everyCommandCompletes : Obligations.EveryCommandCompletes := by
  refine ⟨fun c s => ?_, fun s hs => ?_⟩
  · obtain ⟨t, ht, hkept⟩ := exec_portsKept c s
    exact ⟨t, ht, hkept.pending⟩
  · unfold step
    rw [hs]

end Sys2Proof.Machine

namespace Sys2Proof.Machine

/-! ## Header octets (R154, R170) -/

theorem extract_headerOctet (info : BitVec 4) : (headerOctet info).extractLsb' 0 4 = info := by
  revert info
  decide

theorem oddOnes_headerOctet (info : BitVec 4) : oddOnes (headerOctet info) = false := by
  revert info
  decide

theorem decodeHeader_headerOctet (info : BitVec 4) :
    decodeHeader (headerOctet info) = .taken (headerOctet info) false := by
  revert info
  decide

theorem decodeHeader_oneBit (info : BitVec 4) (k : Fin 8) :
    decodeHeader (headerOctet info ^^^ (1#8 <<< k.val)) = .taken (headerOctet info) (decide (k.val ≠ 7)) := by
  revert info k
  decide

theorem decodeHeader_twoBits (info : BitVec 4) {j k : Fin 8} (h : j ≠ k) :
    decodeHeader (headerOctet info ^^^ (1#8 <<< j.val) ^^^ (1#8 <<< k.val)) = .twoBits := by
  revert info j k
  decide

theorem headerType_headerOctet (type tag : BitVec 2) : headerType (headerOctet (type ++ tag)) = type := by
  revert type tag
  decide

theorem headerTag_headerOctet (type tag : BitVec 2) : headerTag (headerOctet (type ++ tag)) = tag := by
  revert type tag
  decide

/-- Settles O11: the sixteen headers, their sixteen times eight octets with one bit in error, and those with two. -/
theorem headerCodeCorrectsOneBit : Obligations.HeaderCodeCorrectsOneBit :=
  ⟨by decide, fun info => ⟨oddOnes_headerOctet info, extract_headerOctet info, decodeHeader_headerOctet info⟩,
    decodeHeader_oneBit, fun info _ _ => decodeHeader_twoBits info⟩

/-! ## The layout of a frame (R155, R170) -/

/-- A frame's content before its check: header, code, body length with the high octet first, body. -/
def frameFront (type tag : BitVec 2) (code : Octet) (body : List Octet) : List Octet :=
  headerOctet (type ++ tag) :: code :: BitVec.ofNat 8 (body.length / 256) :: BitVec.ofNat 8 body.length :: body

theorem frameContent_eq (type tag : BitVec 2) (code : Octet) (body : List Octet) :
    frameContent type tag code body = frameFront type tag code body ++ checkOctets (frameFront type tag code body) := by
  unfold frameContent frameFront
  rw [octets16_big, extract_high_ofNat, extract_low_ofNat]
  rfl

theorem length_checkOctets (octets : List Octet) : (checkOctets octets).length = 2 := rfl

theorem length_frameContent (type tag : BitVec 2) (code : Octet) (body : List Octet) :
    (frameContent type tag code body).length = body.length + 6 := by
  rw [frameContent_eq, List.length_append, length_checkOctets]
  rfl

theorem runningSums_append_singleton (octets : List Octet) (o : Octet) :
    runningSums (octets ++ [o]) = sumOctet (runningSums octets) o := List.foldl_append

/-! ## What a frame is (steps 1 to 5 of R156) -/

/-- Steps 3 and 4 of R156 pass: the check sums and the size agree, and the content has been kept whole. -/
def ContentSound (count : Nat) (content : List Octet) : Prop :=
  count ≤ Config.contentMax ∧ content.drop (content.length - 2) = checkOctets (content.take (content.length - 2)) ∧
    u16 .big content 2 + 6 = content.length

section CheckContent
variable {count : Nat} {content : List Octet}

theorem checkContent_request (h : ContentSound count content) (ht : headerType (content.headD 0) = 0) :
    checkContent count content = .request (headerTag (content.headD 0)) (content.getD 1 0)
      ((content.take (content.length - 2)).drop 4) := by
  obtain ⟨hcount, hcheck, hsize⟩ := h
  unfold checkContent
  dsimp only
  rw [if_pos ⟨hcount, hcheck, hsize⟩, ht]
  rfl

theorem checkContent_abort (h : ContentSound count content) (ht : headerType (content.headD 0) = 2) :
    checkContent count content = .abort := by
  obtain ⟨hcount, hcheck, hsize⟩ := h
  unfold checkContent
  dsimp only
  rw [if_pos ⟨hcount, hcheck, hsize⟩, ht]
  rfl

theorem checkContent_unsound (h : ¬ ContentSound count content) : checkContent count content = .dropped := if_neg h

theorem checkContent_otherType (ht : headerType (content.headD 0) = 1 ∨ headerType (content.headD 0) = 3) :
    checkContent count content = .dropped := by
  unfold checkContent
  dsimp only
  split
  · rcases ht with ht | ht <;> rw [ht] <;> rfl
  · rfl

end CheckContent

theorem length_frameFront (type tag : BitVec 2) (code : Octet) (body : List Octet) :
    (frameFront type tag code body).length = body.length + 4 := rfl

theorem take_frameContent (type tag : BitVec 2) (code : Octet) (body : List Octet) :
    (frameContent type tag code body).take ((frameContent type tag code body).length - 2) =
      frameFront type tag code body := by
  rw [length_frameContent, frameContent_eq]
  exact List.take_left' (length_frameFront type tag code body)

theorem contentSound_frameContent (type tag : BitVec 2) (code : Octet) {body : List Octet}
    (h : body.length ≤ 634) : ContentSound (body.length + 6) (frameContent type tag code body) := by
  refine ⟨(Nat.add_le_add_right h 6 : _ ≤ 640), ?_, ?_⟩
  · rw [take_frameContent, length_frameContent, frameContent_eq]
    exact List.drop_left' (length_frameFront type tag code body)
  · have hsize : u16 .big (frameContent type tag code body) 2 =
        256 * (BitVec.ofNat 8 (body.length / 256)).toNat + (BitVec.ofNat 8 body.length).toNat := by
      rw [frameContent_eq]
      rfl
    rw [hsize, length_frameContent, BitVec.toNat_ofNat, BitVec.toNat_ofNat]
    omega

/-- A receiver's content after these octets: no more than 640 of them are kept (R153). -/
def Content.ofOctets (l : List Octet) : Content := ⟨l.take Config.contentMax, l.length, false⟩

section Decode
variable {content : List Octet}

theorem decodeContent_short (h : content.length < 6) : decodeContent (.ofOctets content) = (false, .dropped) := if_pos h

theorem headD_take_contentMax (l : List Octet) : (l.take Config.contentMax).headD 0 = l.headD 0 := by cases l <;> rfl

theorem decodeContent_twoBits (hlen : 6 ≤ content.length) (h : decodeHeader (content.headD 0) = .twoBits) :
    decodeContent (.ofOctets content) = (false, .dropped) := by
  unfold decodeContent Content.ofOctets
  dsimp only
  rw [if_neg (Nat.not_lt.2 hlen), headD_take_contentMax, h]

theorem decodeContent_taken (hlen : 6 ≤ content.length) {h : Octet} {counted : Bool}
    (hh : decodeHeader (content.headD 0) = .taken h counted) :
    decodeContent (.ofOctets content) =
      (counted, checkContent content.length (h :: (content.take Config.contentMax).tail)) := by
  unfold decodeContent Content.ofOctets
  dsimp only
  rw [if_neg (Nat.not_lt.2 hlen), headD_take_contentMax, hh]

end Decode

section FrameContent
variable (type tag : BitVec 2) (code : Octet) {body : List Octet}

theorem frameContent_eq_cons (body : List Octet) : frameContent type tag code body =
    headerOctet (type ++ tag) :: (frameContent type tag code body).tail := by
  rw [frameContent_eq]
  rfl

theorem decodeContent_frameContent (h : body.length ≤ 634) :
    decodeContent (.ofOctets (frameContent type tag code body)) =
      (false, checkContent (body.length + 6) (frameContent type tag code body)) := by
  have hlen := length_frameContent type tag code body
  have hhead : (frameContent type tag code body).headD 0 = headerOctet (type ++ tag) := by
    rw [frameContent_eq_cons]
    rfl
  have hwhole : (frameContent type tag code body).take Config.contentMax = frameContent type tag code body :=
    List.take_of_length_le (by rw [hlen]; exact (Nat.add_le_add_right h 6 : _ ≤ 640))
  rw [decodeContent_taken (by omega) (by rw [hhead, decodeHeader_headerOctet]), hwhole, ← frameContent_eq_cons, hlen]

theorem headerType_frameContent (body : List Octet) :
    headerType ((frameContent type tag code body).headD 0) = type := by
  rw [frameContent_eq_cons]
  exact headerType_headerOctet type tag

theorem decodeContent_request (h : body.length ≤ 634) : decodeContent (.ofOctets (frameContent 0 tag code body)) =
    (false, .request tag code body) := by
  have htag : headerTag ((frameContent 0 tag code body).headD 0) = tag := by
    rw [frameContent_eq_cons]
    exact headerTag_headerOctet 0 tag
  have hcode : (frameContent 0 tag code body).getD 1 0 = code := by
    rw [frameContent_eq]
    rfl
  rw [decodeContent_frameContent 0 tag code h, checkContent_request (contentSound_frameContent 0 tag code h)
    (headerType_frameContent 0 tag code body), htag, hcode, take_frameContent]
  rfl

theorem decodeContent_abort (h : body.length ≤ 634) : decodeContent (.ofOctets (frameContent 2 tag code body)) =
    (false, .abort) := by
  rw [decodeContent_frameContent 2 tag code h, checkContent_abort (contentSound_frameContent 2 tag code h)
    (headerType_frameContent 2 tag code body)]

end FrameContent

/-! ## Octets received (R153) -/

theorem receiveOctets_append (p : Port) (xs ys : List Octet) (s : State) :
    receiveOctets p (xs ++ ys) s = receiveOctets p ys (receiveOctets p xs s) := by
  induction xs generalizing s with
  | nil => rfl
  | cons o rest ih => exact ih _

/-- A port with its receiver as given. -/
def PortState.withReceiver (r : Receiver) (ps : PortState) : PortState := { ps with receiver := r }

@[simp] theorem receiver_withReceiver (r : Receiver) (ps : PortState) : (ps.withReceiver r).receiver = r := rfl

theorem modPort_receiver_self {s : State} {p : Port} {r : Receiver} (h : (s.port p).receiver = r) :
    s.modPort p (PortState.withReceiver r) = s := by
  unfold State.modPort PortState.withReceiver
  rw [← h]
  exact setPort_port s p

theorem receiver_modPort_withReceiver (s : State) (p : Port) (r : Receiver) :
    ((s.modPort p (PortState.withReceiver r)).port p).receiver = r := by rw [port_modPort_same]; rfl

theorem modPort_withReceiver_twice (s : State) (p : Port) (r r' : Receiver) :
    (s.modPort p (PortState.withReceiver r)).modPort p (PortState.withReceiver r') =
      s.modPort p (PortState.withReceiver r') := modPort_modPort s p _ _

theorem needsEscape_iff (o : Octet) : needsEscape o = true ↔ o = 0xD3 ∨ o = 0xD4 ∨ o = 0xD5 := by
  unfold needsEscape Config.startOctet Config.endOctet Config.escapeOctet
  simp only [Bool.or_eq_true, beq_iff_eq]
  tauto

section ReceiveOctet
variable {p : Port} {s : State} {c : Content} (h : (s.port p).receiver = .inFrame c)
include h

theorem receiveOctet_data (he : c.escaped = false) {o : Octet} (ho : ¬ needsEscape o = true) :
    receiveOctet p o s = s.modPort p (PortState.withReceiver (.inFrame (c.push o))) := by
  obtain ⟨hstart, hescape, hend⟩ : o ≠ Config.startOctet ∧ o ≠ Config.escapeOctet ∧ o ≠ Config.endOctet := by
    rw [needsEscape_iff, not_or, not_or] at ho
    exact ho
  unfold receiveOctet
  rw [h]
  dsimp only
  rw [if_neg hstart, if_neg (by rw [he]; decide), if_neg hend, if_neg hescape]
  rfl

theorem receiveOctet_escape (he : c.escaped = false) :
    receiveOctet p Config.escapeOctet s =
      s.modPort p (PortState.withReceiver (.inFrame { c with escaped := true })) := by
  unfold receiveOctet
  rw [h]
  dsimp only
  rw [if_neg (by decide), if_neg (by rw [he]; decide), if_neg (by decide), if_pos rfl]
  rfl

theorem receiveOctet_escaped (he : c.escaped = true) {o : Octet} (ho : needsEscape o = true) :
    receiveOctet p (o ^^^ Config.escapeMask) s = s.modPort p (PortState.withReceiver (.inFrame (c.push o))) := by
  have hstart : o ^^^ Config.escapeMask ≠ Config.startOctet := by
    rcases (needsEscape_iff o).1 ho with rfl | rfl | rfl <;> decide
  have hback : o ^^^ Config.escapeMask ^^^ Config.escapeMask = o := by
    rw [BitVec.xor_assoc, BitVec.xor_self, BitVec.xor_zero]
  unfold receiveOctet
  rw [h]
  dsimp only
  rw [if_neg hstart, if_pos he, hback, if_pos ho]
  rfl

theorem receiveOctet_end (he : c.escaped = false) : receiveOctet p Config.endOctet s = endFrame p c s := by
  unfold receiveOctet
  rw [h]
  dsimp only
  rw [if_neg (by decide), if_neg (by rw [he]; decide), if_pos rfl]

/-- The line octets of one content octet leave that octet in the receiver. -/
theorem receiveOctets_escapeOne (he : c.escaped = false) (o : Octet) :
    receiveOctets p (escapeOne o) s = s.modPort p (PortState.withReceiver (.inFrame (c.push o))) := by
  unfold escapeOne
  split
  · next ho =>
    show receiveOctet p (o ^^^ Config.escapeMask) (receiveOctet p Config.escapeOctet s) = _
    rw [receiveOctet_escape h he,
      receiveOctet_escaped (c := { c with escaped := true }) (receiver_modPort_withReceiver ..) rfl ho,
      modPort_withReceiver_twice]
    rfl
  · next ho => exact receiveOctet_data h he ho

end ReceiveOctet

theorem push_ofOctets (l : List Octet) (o : Octet) : (Content.ofOctets l).push o = .ofOctets (l ++ [o]) := by
  unfold Content.push Content.ofOctets
  rw [List.length_append, List.take_append]
  dsimp only
  split
  · next hroom =>
    rw [List.take_of_length_le (Nat.le_of_lt hroom), List.take_of_length_le (by simp; omega)]
    rfl
  · next hfull =>
    rw [Nat.sub_eq_zero_of_le (Nat.not_lt.1 hfull), List.take_zero, List.append_nil]
    rfl

/-- Unescaping undoes escaping, from any content received so far. -/
theorem receiveOctets_escapeContent {p : Port} {s : State} {before : List Octet}
    (h : (s.port p).receiver = .inFrame (.ofOctets before)) (content : List Octet) :
    receiveOctets p (escapeContent content) s =
      s.modPort p (PortState.withReceiver (.inFrame (.ofOctets (before ++ content)))) := by
  induction content generalizing before s with
  | nil =>
    rw [List.append_nil]
    exact (modPort_receiver_self h).symm
  | cons o rest ih =>
    have hsplit : escapeContent (o :: rest) = escapeOne o ++ escapeContent rest := List.flatMap_cons
    rw [hsplit, receiveOctets_append, receiveOctets_escapeOne h rfl, push_ofOctets,
      ih (receiver_modPort_withReceiver ..), modPort_withReceiver_twice, List.append_assoc, List.singleton_append]

/-! ## A frame that has reached END (R156) -/

section EndFrame
variable {p : Port} {c : Content} {counted : Bool} (s : State)

theorem endFrame_dropped (h : decodeContent c = (counted, .dropped)) :
    endFrame p c s = s.modPort p fun ps => countDrop (leaveFrame counted ps) := by
  unfold endFrame
  rw [h]
  exact modPort_modPort ..

theorem endFrame_request {tag : BitVec 2} {code : Octet} {body : List Octet}
    (h : decodeContent c = (counted, .request tag code body)) :
    endFrame p c s = acceptRequest p tag code body (s.modPort p (leaveFrame counted)) := by
  unfold endFrame
  rw [h]

theorem endFrame_abort (h : decodeContent c = (counted, .abort)) :
    endFrame p c s = s.modPort p fun ps => abortQueue (leaveFrame counted ps) := by
  unfold endFrame
  rw [h]
  exact modPort_modPort ..

/-- What a frame comes to does not rest on where the receiver stands at its END. -/
theorem endFrame_withReceiver (p : Port) (c : Content) (r : Receiver) :
    endFrame p c (s.modPort p (PortState.withReceiver r)) = endFrame p c s := by
  have hleave : ∀ counted, (s.modPort p (PortState.withReceiver r)).modPort p (leaveFrame counted) =
      s.modPort p (leaveFrame counted) := fun counted => by
    rw [modPort_modPort]
    cases counted <;> rfl
  unfold endFrame
  dsimp only
  rw [hleave]

end EndFrame

theorem onLine_released {s : State} (h : s.resetHeld = false) (f : State → State) : onLine f s = f s :=
  if_neg (by rw [h]; decide)

/-- FRAME_RECEIVED with the line octets of a content is the end of a frame with that content. -/
theorem exec_frameReceived {s : State} {p : Port} (hheld : s.resetHeld = false)
    (h : (s.port p).receiver = .inFrame ⟨[], 0, false⟩) (content : List Octet) :
    exec (.frameReceived p (escapeContent content)) s = .next (endFrame p (.ofOctets content) s) := by
  have hcontent := receiveOctets_escapeContent (before := []) h content
  show Host.Outcome.next (onLine (receiveOctets p (escapeContent content ++ [Config.endOctet])) s) = _
  rw [onLine_released hheld, receiveOctets_append, hcontent]
  show Host.Outcome.next (receiveOctet p Config.endOctet _) = _
  rw [receiveOctet_end (receiver_modPort_withReceiver ..) rfl, endFrame_withReceiver]
  rfl

end Sys2Proof.Machine

namespace Sys2Proof.Machine

/-! ## Request frames (steps 6 to 10 of R156) -/

theorem length_le_of_admitsLength {k : RequestCode} {n : Nat} (h : admitsLength k n = true) : n ≤ 634 := by
  have hbound : ∀ m ∈ bodyLengths k, m ≤ 634 := by cases k <;> decide
  exact hbound n ((admitsLength_iff k n).1 h)

section Refusals
variable {ps : PortState} {code : Octet} {body : List Octet} {k : RequestCode}

theorem refusalOf_badCode (h : codeOfOctet code = none) : refusalOf ps code body = .error .badCode := by
  unfold refusalOf
  rw [h]

theorem refusalOf_noRight (h : codeOfOctet code = some k) (hr : hasRight ps.rights k = false) :
    refusalOf ps code body = .error .noRight := by
  unfold refusalOf
  rw [h]
  exact if_pos hr

theorem refusalOf_badLength (h : codeOfOctet code = some k) (hr : hasRight ps.rights k = true)
    (hl : admitsLength k body.length = false) : refusalOf ps code body = .error .badLength := by
  unfold refusalOf
  rw [h]
  dsimp only
  rw [if_neg (by rw [hr]; decide), if_pos hl]

theorem refusalOf_busy (h : codeOfOctet code = some k) (hr : hasRight ps.rights k = true)
    (hl : admitsLength k body.length = true) (hp : Config.queuePlaces ≤ ps.places.length) :
    refusalOf ps code body = .error .busy := by
  unfold refusalOf
  rw [h]
  dsimp only
  rw [if_neg (by rw [hr]; decide), if_neg (by rw [hl]; decide), if_neg (Nat.not_lt.2 hp)]

theorem refusalOf_accepted (h : codeOfOctet code = some k) (hr : hasRight ps.rights k = true)
    (hl : admitsLength k body.length = true) (hp : ps.places.length < Config.queuePlaces) :
    refusalOf ps code body = .ok k := by
  unfold refusalOf
  rw [h]
  dsimp only
  rw [if_neg (by rw [hr]; decide), if_neg (by rw [hl]; decide), if_pos hp]

end Refusals

section Requests
variable {s : State} {p : Port} {tag : BitVec 2} {code : Octet} {body : List Octet}
  (hheld : s.resetHeld = false) (hframe : (s.port p).receiver = .inFrame ⟨[], 0, false⟩) (hbody : body.length ≤ 634)
include hheld hframe hbody

/-- A request frame received octet by octet comes to steps 6 to 10 outside the frame. -/
theorem exec_requestFrame : exec (.frameReceived p (escapeContent (frameContent 0 tag code body))) s =
    .next (acceptRequest p tag code body (s.modPort p (leaveFrame false))) := by
  rw [exec_frameReceived hheld hframe, endFrame_request s (decodeContent_request tag code hbody)]

theorem exec_requestFrame_accepted {k : RequestCode} (h : refusalOf (s.port p) code body = .ok k) :
    exec (.frameReceived p (escapeContent (frameContent 0 tag code body))) s =
      .next (arbitrate (s.modPort p fun ps =>
        { ps with receiver := .looking, places := ps.places ++ [⟨⟨tag, k, body⟩, .waiting⟩] })) := by
  rw [exec_requestFrame hheld hframe hbody]
  unfold acceptRequest
  rw [port_modPort_same, show refusalOf (leaveFrame false (s.port p)) code body = .ok k from h]
  dsimp only
  rw [modPort_modPort]
  rfl

theorem exec_requestFrame_refused {st : Status} (h : refusalOf (s.port p) code body = .error st) :
    exec (.frameReceived p (escapeContent (frameContent 0 tag code body))) s =
      .next (s.modPort p fun ps => refuseFrame tag code st { ps with receiver := .looking }) := by
  rw [exec_requestFrame hheld hframe hbody]
  unfold acceptRequest
  rw [port_modPort_same, show refusalOf (leaveFrame false (s.port p)) code body = .error st from h]
  dsimp only
  rw [modPort_modPort]
  rfl

end Requests

/-- Settles O8: a frame's content is decoded to the request that it was built from, whose code, right, length and
place pass steps 6 to 9. -/
theorem requestFrameIsAccepted : Obligations.RequestFrameIsAccepted := by
  intro s p tag k body hheld hframe hright hlength hroom
  exact exec_requestFrame_accepted hheld hframe (length_le_of_admitsLength hlength)
    (refusalOf_accepted (codeOfOctet_codeOctet k) hright hlength hroom)

theorem modPort_congr {s : State} {p : Port} {f g : PortState → PortState} (h : f (s.port p) = g (s.port p)) :
    s.modPort p f = s.modPort p g := congrArg (s.setPort p) h

/-- Settles O9: each way to fail step 6, 7, 8 or 9 has its status, and a refusal joins the list while it has room. -/
theorem requestFrameIsRefused : Obligations.RequestFrameIsRefused := by
  intro s p tag code body st hheld hframe hbody hfail
  obtain ⟨status, hrefused, rfl⟩ : ∃ status, refusalOf (s.port p) code body = .error status ∧
      BitVec.ofNat 8 (statusOctet status) = st := by
    rcases hfail with ⟨hcode, rfl⟩ | ⟨k, hcode, ⟨hright, rfl⟩ | ⟨hright, hlength, rfl⟩ | ⟨hright, hlength, hfull, rfl⟩⟩
    · exact ⟨.badCode, refusalOf_badCode hcode, rfl⟩
    · exact ⟨.noRight, refusalOf_noRight hcode hright, rfl⟩
    · exact ⟨.badLength, refusalOf_badLength hcode hright hlength, rfl⟩
    · exact ⟨.busy, refusalOf_busy hcode hright hlength hfull, rfl⟩
  rw [exec_requestFrame_refused hheld hframe hbody hrefused]
  exact ⟨fun hroom => congrArg Host.Outcome.next (modPort_congr (if_pos hroom)),
    fun hfull => congrArg Host.Outcome.next (modPort_congr (if_neg (Nat.not_lt.2 hfull)))⟩

/-! ## Frames that are dropped (steps 1 to 5 of R156) -/

theorem countDrop_eq (ps : PortState) : countDrop ps = { ps with
    drops := if ps.drops < 65535 then ps.drops + 1 else ps.drops, flags := { ps.flags with link := true } } := rfl

theorem countCorrected_eq (ps : PortState) : countCorrected ps = { ps with
    correctedHeaders := if ps.correctedHeaders < 65535 then ps.correctedHeaders + 1 else ps.correctedHeaders
    flags := { ps.flags with link := true } } := rfl

/-- A content whose header is taken fails step 3, 4 or 5. -/
theorem checkContent_bad {x h : Octet} {tail : List Octet} (hlen : 5 ≤ tail.length)
    (hbad : 640 < tail.length + 1 ∨
      (x :: tail).drop (tail.length - 1) ≠ checkOctets (h :: ((x :: tail).take (tail.length - 1)).tail) ∨
      256 * ((x :: tail).getD 2 0).toNat + ((x :: tail).getD 3 0).toNat + 6 ≠ tail.length + 1 ∨
      headerType h = 1 ∨ headerType h = 3) :
    checkContent (tail.length + 1) (h :: (((x :: tail).take Config.contentMax).tail)) = .dropped := by
  by_cases hlong : Config.contentMax < tail.length + 1
  · exact checkContent_unsound fun hsound => Nat.not_le.2 hlong hsound.1
  rw [List.take_of_length_le (Nat.not_lt.1 hlong), List.tail_cons]
  obtain ⟨n, hn⟩ : ∃ n, tail.length - 1 = n + 1 := ⟨tail.length - 2, by omega⟩
  have hfront : (h :: tail).length - 2 = n + 1 := hn
  rw [hn] at hbad
  rcases hbad with hbad | hbad | hbad | hbad
  · exact absurd hbad hlong
  · refine checkContent_unsound fun ⟨_, hcheck, _⟩ => hbad ?_
    rw [hfront] at hcheck
    exact hcheck
  · exact checkContent_unsound fun ⟨_, _, hsize⟩ => hbad hsize
  · exact checkContent_otherType hbad

/-- Settles O10: the counts and the layout spelled out, and each failing step makes the frame a drop. -/
theorem badFrameIsDropped : Obligations.BadFrameIsDropped := by
  refine ⟨fun ps => ⟨countDrop_eq ps, countCorrected_eq ps⟩,
    ⟨runningSums, rfl, runningSums_append_singleton, fun _ => rfl⟩, frameContent_eq,
    fun s p content hheld hframe => ⟨fun hbad => ?_, fun h counted hlen htaken hbad => ?_⟩⟩
  · have hdecode : decodeContent (.ofOctets content) = (false, .dropped) := by
      by_cases hlen : content.length < 6
      · exact decodeContent_short hlen
      · exact decodeContent_twoBits (Nat.not_lt.1 hlen) (hbad.resolve_left hlen)
    rw [exec_frameReceived hheld hframe, endFrame_dropped s hdecode]
    rfl
  · have hdecode : decodeContent (.ofOctets content) = (counted, .dropped) := by
      rw [decodeContent_taken hlen htaken]
      cases content with
      | nil => exact absurd hlen (by decide)
      | cons x tail => exact congrArg (counted, ·) (checkContent_bad (Nat.le_of_succ_le_succ hlen) hbad)
    rw [exec_frameReceived hheld hframe, endFrame_dropped s hdecode]
    rfl

/-! ## Frames with a header bit in error (R154) -/

/-- A counted header is one that the frame without the error finds counted before it. -/
theorem endFrame_counted {p : Port} {c c' : Content} {outcome : FrameOutcome} (s : State)
    (h : decodeContent c = (true, outcome)) (h' : decodeContent c' = (false, outcome)) :
    endFrame p c s = endFrame p c' (s.modPort p countCorrected) := by
  have hleave : (s.modPort p countCorrected).modPort p (leaveFrame false) = s.modPort p (leaveFrame true) := by
    rw [modPort_modPort]
    rfl
  unfold endFrame
  rw [h, h']
  dsimp only
  rw [hleave]

theorem endFrame_congr {p : Port} {c c' : Content} (s : State) (h : decodeContent c = decodeContent c') :
    endFrame p c s = endFrame p c' s := by
  unfold endFrame
  rw [h]

/-- After the header decode a content rests on the octet taken, not on the one received. -/
theorem decodeContent_cons {x h : Octet} {tail : List Octet} {counted : Bool} (hlen : 5 ≤ tail.length)
    (hx : decodeHeader x = .taken h counted) : decodeContent (.ofOctets (x :: tail)) =
      (counted, checkContent (tail.length + 1) (h :: tail.take 639)) := by
  have hkept : ((x :: tail).take Config.contentMax).tail = tail.take 639 := by
    rw [show Config.contentMax = 639 + 1 from rfl, List.take_succ_cons, List.tail_cons]
  rw [decodeContent_taken (content := x :: tail) (Nat.succ_le_succ hlen) hx, hkept, List.length_cons]

/-- Settles O12: both frames come to the same content once the header is decoded. -/
theorem correctedHeaderFrameIsTaken : Obligations.CorrectedHeaderFrameIsTaken := by
  intro s p type tag code body k hheld hframe _
  have hlen : 5 ≤ (frameContent type tag code body).tail.length := by
    rw [List.length_tail, length_frameContent]
    omega
  have hflipped := decodeContent_cons hlen (decodeHeader_oneBit (type ++ tag) k)
  have hwhole := decodeContent_cons hlen (decodeHeader_headerOctet (type ++ tag))
  rw [← frameContent_eq_cons] at hwhole
  rw [exec_frameReceived hheld hframe]
  by_cases hk : k.val = 7
  · rw [if_pos hk, exec_frameReceived hheld hframe]
    rw [decide_eq_false (not_not_intro hk)] at hflipped
    exact congrArg Host.Outcome.next (endFrame_congr s (hflipped.trans hwhole.symm))
  · rw [if_neg hk]
    rw [decide_eq_true hk] at hflipped
    show _ = exec _ (s.modPort p countCorrected)
    rw [exec_frameReceived ((resetHeld_modPort s p _).trans hheld) (by rw [port_modPort_same]; exact hframe)]
    exact congrArg Host.Outcome.next (endFrame_counted s hflipped hwhole)

/-! ## ABORT (R160) -/

theorem exec_abortFrame {s : State} {p : Port} {c : Content} (hheld : s.resetHeld = false)
    (h : (s.port p).receiver = .inFrame c) :
    exec (.abortFrame p) s = .next (s.modPort p fun ps => abortQueue { ps with receiver := .looking }) := by
  show Host.Outcome.next (onLine (abortFrame p) s) = _
  rw [onLine_released hheld]
  unfold abortFrame
  rw [h]

/-- Settles O13: an ABORT answers each waiting place where it stands, and its frame is decoded to an ABORT. -/
theorem abortAnswersWaitingRequests : Obligations.AbortAnswersWaitingRequests := by
  intro s p c hheld hframe
  refine ⟨exec_abortFrame hheld hframe, fun hc tag code body hbody => ?_⟩
  subst hc
  rw [exec_abortFrame hheld hframe, exec_frameReceived hheld hframe,
    endFrame_abort s (decodeContent_abort tag code hbody)]
  rfl

end Sys2Proof.Machine

namespace Sys2Proof.Machine

/-! ## The receiver's commands (R152, R153, R161) -/

theorem modPort_self {s : State} {p : Port} {f : PortState → PortState} (h : f (s.port p) = s.port p) :
    s.modPort p f = s := (congrArg (s.setPort p) h).trans (setPort_port s p)

section Released
variable {s : State} (p : Port) (h : s.resetHeld = false)
include h

theorem exec_frameStart : exec (.frameStart p) s = .next (receiveOctet p Config.startOctet s) :=
  congrArg Host.Outcome.next (onLine_released h _)

theorem exec_octetInError : exec (.octetInError p) s = .next (s.modPort p octetInError) :=
  congrArg Host.Outcome.next (onLine_released h _)

theorem exec_receiverResumes : exec (.receiverResumes p) s = .next (s.modPort p receiverResumes) :=
  congrArg Host.Outcome.next (onLine_released h _)

theorem exec_frameAbandoned (cause : AbandonCause) :
    exec (.frameAbandoned p cause) s = .next (frameAbandoned p cause s) :=
  congrArg Host.Outcome.next (onLine_released h _)

theorem exec_replySent : exec (.replySent p) s = .next (s.modPort p replySent) :=
  congrArg Host.Outcome.next (onLine_released h _)

end Released

section Receiver
variable {s : State} {p : Port}

theorem receiveOctet_start_looking (h : (s.port p).receiver = .looking) : receiveOctet p Config.startOctet s =
    s.modPort p fun ps => { ps with receiver := .inFrame ⟨[], 0, false⟩ } := by
  unfold receiveOctet
  rw [h]
  exact if_pos rfl

theorem receiveOctet_start_inFrame {c : Content} (h : (s.port p).receiver = .inFrame c) :
    receiveOctet p Config.startOctet s =
      s.modPort p fun ps => countDrop { ps with receiver := .inFrame ⟨[], 0, false⟩ } := by
  unfold receiveOctet
  rw [h]
  exact if_pos rfl

theorem receiveOctet_waiting {taken : Bool} (h : (s.port p).receiver = .waitHigh taken) (o : Octet) :
    receiveOctet p o s = s := by
  unfold receiveOctet
  rw [h]

theorem modPort_octetInError_looking (h : (s.port p).receiver = .looking) :
    s.modPort p octetInError = s.modPort p fun ps => { ps with receiver := .waitHigh false } := by
  refine modPort_congr ?_
  unfold octetInError
  rw [h]

theorem modPort_octetInError_inFrame {c : Content} (h : (s.port p).receiver = .inFrame c) :
    s.modPort p octetInError = s.modPort p fun ps => countDrop { ps with receiver := .waitHigh false } := by
  refine modPort_congr ?_
  unfold octetInError
  rw [h]
  rfl

theorem modPort_octetInError_waiting {taken : Bool} (h : (s.port p).receiver = .waitHigh taken) :
    s.modPort p octetInError = s := by
  refine modPort_self ?_
  unfold octetInError
  rw [h]

theorem modPort_receiverResumes_waiting {taken : Bool} (h : (s.port p).receiver = .waitHigh taken) :
    s.modPort p receiverResumes = s.modPort p fun ps => { ps with receiver := .looking } := by
  refine modPort_congr ?_
  unfold receiverResumes
  rw [h]

theorem modPort_receiverResumes_other (h : ∀ taken, (s.port p).receiver ≠ .waitHigh taken) :
    s.modPort p receiverResumes = s := by
  refine modPort_self ?_
  unfold receiverResumes
  split
  · next hw => exact absurd hw (h _)
  · rfl
  · rfl

theorem frameAbandoned_inFrame {c : Content} (cause : AbandonCause) (h : (s.port p).receiver = .inFrame c) :
    frameAbandoned p cause s = s.modPort p (abandonFrame (receiverAfter cause)) := by
  unfold frameAbandoned
  rw [h]

theorem frameAbandoned_other (cause : AbandonCause) (h : ∀ c, (s.port p).receiver ≠ .inFrame c) :
    frameAbandoned p cause s = s := by
  unfold frameAbandoned
  split
  · next hc => exact absurd hc (h _)
  · rfl

end Receiver

/-! ## A low of LDI (R152, R161) -/

/-- Nine periods of an octet and a low stop period are an octet in error. -/
theorem hearLine_octetInError (p : Port) (o : Octet) (s : State) :
    ∃ k, hearLine p ((octetLevels o).take 9 ++ [false]) .idle s = (⟨.wait, k⟩, s.modPort p octetInError) := ⟨_, rfl⟩

theorem hearLine_tenLows (p : Port) (s : State) :
    hearLine p (List.replicate 10 false) .idle s = (⟨.wait, 10⟩, s.modPort p octetInError) := rfl

/-- Waiting, low periods bring nothing but at the 32nd. -/
theorem hearLine_lows (p : Port) (m k : Nat) (s : State) (h : k + m < Config.linkResetLows ∨ Config.linkResetLows ≤ k) :
    hearLine p (List.replicate m false) ⟨.wait, k⟩ s = (⟨.wait, k + m⟩, s) := by
  induction m generalizing k with
  | zero => rfl
  | succ m ih =>
    have hnone : (if k + 1 = Config.linkResetLows then some LineEvent.linkReset else none) = none :=
      if_neg (by omega)
    have hsample : sampleLine ⟨.wait, k⟩ false = (⟨.wait, k + 1⟩, none) :=
      congrArg (LineWatch.mk .wait (k + 1), ·) hnone
    rw [List.replicate_succ, hearLine, hsample, show k + (m + 1) = k + 1 + m by omega]
    exact ih (k + 1) (by omega)

/-- The 32nd low period in a row is a link reset, once in the low. -/
theorem hearLine_linkReset (p : Port) (n : Nat) (s : State) :
    (hearLine p (List.replicate (32 + n) false) .idle s).2 = linkReset p (s.modPort p octetInError) := by
  have hsplit : List.replicate (32 + n) false =
      List.replicate 10 false ++ (List.replicate 21 false ++ ([false] ++ List.replicate n false)) := by
    rw [← List.replicate_one, List.replicate_append_replicate, List.replicate_append_replicate,
      List.replicate_append_replicate]
    congr 1
    omega
  have hreset : ∀ t, hearLine p [false] ⟨.wait, 31⟩ t = (⟨.wait, 32⟩, linkReset p t) := fun _ => rfl
  rw [hsplit, hearLine_append, hearLine_tenLows, hearLine_append, hearLine_lows p 21 10 _ (.inl (by decide)),
    hearLine_append, hreset, hearLine_lows p n 32 _ (.inr (by decide))]

theorem hearLine_shortLow (p : Port) {m : Nat} (s : State) (h : m < 32) (h10 : 10 ≤ m) :
    hearLine p (List.replicate m false) .idle s = (⟨.wait, m⟩, s.modPort p octetInError) := by
  obtain ⟨n, rfl⟩ := Nat.exists_eq_add_of_le h10
  rw [← List.replicate_append_replicate, hearLine_append, hearLine_tenLows]
  exact hearLine_lows p n 10 _ (.inl h)

/-- Settles O6: each command in each of the receiver's three states, and the levels that each stands for. -/
theorem receiverFollowsTheLine : Obligations.ReceiverFollowsTheLine := by
  refine ⟨fun s p hheld => ⟨fun h => ?looking, fun c h => ?inFrame, fun taken h => ?waiting⟩,
    fun s p cause hheld => ⟨fun c h => ?abandoned, fun h => ?outside⟩,
    fun s p hheld => ⟨fun o => hearLine_octetInError p o s, exec_octetInError p hheld, fun k => ?_, fun n t ht => ?_⟩⟩
  case looking =>
    rw [exec_frameStart p hheld, exec_octetInError p hheld, exec_receiverResumes p hheld,
      receiveOctet_start_looking h, modPort_octetInError_looking h, modPort_receiverResumes_other (by simp [h])]
    exact ⟨rfl, rfl, rfl⟩
  case inFrame =>
    rw [exec_frameStart p hheld, exec_octetInError p hheld, exec_receiverResumes p hheld,
      receiveOctet_start_inFrame h, modPort_octetInError_inFrame h, modPort_receiverResumes_other (by simp [h])]
    exact ⟨rfl, rfl, rfl⟩
  case waiting =>
    rw [exec_frameStart p hheld, exec_octetInError p hheld, exec_receiverResumes p hheld,
      receiveOctet_waiting h, modPort_octetInError_waiting h, modPort_receiverResumes_waiting h]
    exact ⟨rfl, rfl, rfl⟩
  case abandoned =>
    rw [exec_frameAbandoned p hheld, frameAbandoned_inFrame cause h]
    cases cause <;> rfl
  case outside => rw [exec_frameAbandoned p hheld, frameAbandoned_other cause h]
  · exact ⟨exec_receiverResumes p hheld, rfl⟩
  · cases (exec_octetInError p hheld).symm.trans ht
    rw [exec_linkReset p ((resetHeld_modPort s p _).trans hheld)]
    exact ⟨congrArg Host.Outcome.next (hearLine_linkReset p n s).symm, fun m h h10 => hearLine_shortLow p s h h10⟩

/-! ## LDO (R152, R158) -/

/-- The octets that a port sends, each with the pause before it. -/
def ldoStream (pauses : Nat → Nat) (octets : List Octet) : List (Nat × Octet) :=
  octets.zipIdx.map fun x => (pauses x.2, x.1)

theorem ldoLevel_idle {ps : PortState} (h : ps.sending = none) (pauses : Nat → Nat) (n : Nat) :
    ldoLevel pauses ps n = true := by
  unfold ldoLevel
  rw [h]

theorem ldoLevel_sending {ps : PortState} {f : Sending} (h : ps.sending = some f) (pauses : Nat → Nat) (n : Nat) :
    ldoLevel pauses ps n = (lineForm (ldoStream pauses f.octets)).getD n true := by
  unfold ldoLevel
  rw [h]
  rfl

theorem map_fst_ldoStream (pauses : Nat → Nat) (octets : List Octet) :
    (ldoStream pauses octets).map (·.1) = (List.range octets.length).map pauses := by
  unfold ldoStream
  rw [List.map_map, List.range_eq_range', ← List.zipIdx_map_snd 0 octets, List.map_map]
  rfl

theorem length_ldoStream (pauses : Nat → Nat) (octets : List Octet) :
    (ldoStream pauses octets).length = octets.length := by
  unfold ldoStream
  rw [List.length_map, List.length_zipIdx]

/-- The k-th octet of a stream, after k octets with their pauses. -/
theorem ldoStream_split (pauses : Nat → Nat) {octets : List Octet} {k : Nat} {o : Octet} (h : octets[k]? = some o) :
    ∃ before after, ldoStream pauses octets = before ++ (pauses k, o) :: after ∧
      (lineForm before).length = ((List.range k).map pauses).sum + 10 * k := by
  obtain ⟨hk, ho⟩ := List.getElem?_eq_some_iff.1 h
  have hk' : k < (ldoStream pauses octets).length := by rwa [length_ldoStream]
  have hat : (ldoStream pauses octets)[k] = (pauses k, o) := by
    simp [ldoStream, ho]
  refine ⟨(ldoStream pauses octets).take k, (ldoStream pauses octets).drop (k + 1), ?_, ?_⟩
  · rw [← hat, ← List.drop_eq_getElem_cons hk', List.take_append_drop]
  · rw [length_lineForm, List.map_take, map_fst_ldoStream, List.length_take_of_le (Nat.le_of_lt hk'),
      ← List.map_take, List.take_range, Nat.min_eq_left (Nat.le_of_lt hk)]

theorem octetLevels_bit (o : Octet) {i : Nat} (h : i < 8) : (octetLevels o).getD (1 + i) true = o.getLsbD i := by
  have hbits : ∀ i : Fin 8, (octetLevels o).getD (1 + i.val) true = o.getLsbD i.val := by
    intro i
    fin_cases i <;> rfl
  exact hbits ⟨i, h⟩

theorem escapeOne_eq (o : Octet) :
    escapeOne o = if o = 0xD3 ∨ o = 0xD4 ∨ o = 0xD5 then [0xD4, o ^^^ 0x40] else [o] :=
  if_congr (needsEscape_iff o) rfl rfl

theorem flatMap_octetLevels (octets : List Octet) :
    octets.flatMap octetLevels = lineForm (octets.map fun o => (0, o)) := by
  unfold lineForm
  rw [List.flatMap_map]
  rfl

/-- Settles O7: escapes are undone octet by octet, and each octet has its ten periods on the line, after its pause. -/
theorem escapedContentIsRecovered : Obligations.EscapedContentIsRecovered := by
  refine ⟨fun s p content h => receiveOctets_escapeContent (before := []) h content, fun _ => rfl,
    fun s p stream => hearLine_line p stream s, fun s p octets hheld => ⟨?start, ?frame⟩,
    fun content => congrArg content.flatMap (funext escapeOne_eq), fun _ => rfl,
    fun pauses ps => ⟨fun h => ldoLevel_idle h pauses, fun f hf => ⟨fun k o ho => ?octet, fun n hn => ?after⟩⟩⟩
  case start =>
    rw [exec_frameStart p hheld]
    exact congrArg (Host.Outcome.next ·.2) (hearLine_octetLevels p 0xD3 s).symm
  case frame =>
    have hheard := hearLine_line p ((octets ++ [Config.endOctet]).map fun o => (0, o)) s
    rw [← flatMap_octetLevels, List.map_map] at hheard
    have hoctets : ((octets ++ [Config.endOctet]).map ((·.2) ∘ fun o => ((0 : Nat), o))) =
        octets ++ [Config.endOctet] := List.map_id _
    rw [hoctets] at hheard
    show Host.Outcome.next (onLine (receiveOctets p (octets ++ [Config.endOctet])) s) = _
    rw [onLine_released hheld]
    exact congrArg (Host.Outcome.next ·.2) hheard.symm
  case octet =>
    obtain ⟨before, after, hsplit, hlen⟩ := ldoStream_split pauses ho
    have hlevel : ∀ n, ldoLevel pauses ps n = (lineForm (before ++ (pauses k, o) :: after)).getD n true := fun n => by
      rw [ldoLevel_sending hf, hsplit]
    have hbegins : ((List.range (k + 1)).map pauses).sum + 10 * k = (lineForm before).length + pauses k := by
      rw [hlen, List.range_succ, List.map_append, List.sum_append, List.map_singleton, List.sum_singleton]
      omega
    have hperiod : ∀ i, i < 10 → ldoLevel pauses ps ((lineForm before).length + pauses k + i) =
        (octetLevels o).getD i true := fun i hi => by rw [hlevel, lineForm_octet before after (pauses k, o) hi]
    dsimp only
    rw [hbegins]
    refine ⟨fun i hi => ?_, hperiod 0 (by decide), fun i hi => ?_, hperiod 9 (by decide)⟩
    · rw [Nat.add_sub_cancel, hlevel]
      exact lineForm_pause before after (pauses k, o) hi
    · rw [Nat.add_assoc _ 1 i, hperiod _ (by omega)]
      exact octetLevels_bit o hi
  case after =>
    rw [ldoLevel_sending hf]
    refine List.getD_eq_default _ _ ?_
    rw [length_lineForm, map_fst_ldoStream, length_ldoStream]
    exact hn

end Sys2Proof.Machine

namespace Sys2Proof.Machine

/-! ## The release of RESETN (R151, R169) -/

theorem exec_resetRelease {s : State} (a b c : Rights) (h : s.resetHeld = true) :
    exec (.resetRelease a b c) s = .next
      { s with
        resetHeld := false
        ports := ⟨releasePort a s.ports.a, releasePort b s.ports.b, releasePort c s.ports.c⟩ } :=
  congrArg Host.Outcome.next (if_pos h)

theorem exec_resetRelease_again {s : State} (a b c : Rights) (h : s.resetHeld = false) :
    exec (.resetRelease a b c) s = .next s := congrArg Host.Outcome.next (if_neg (by rw [h]; decide))

theorem onLine_held {s : State} (h : s.resetHeld = true) (f : State → State) : onLine f s = s := if_pos h

/-- Settles O4: the release writes the rights and the receivers alone, and every line event asks for RESETN high. -/
theorem resetReleaseLatchesStraps : Obligations.ResetReleaseLatchesStraps := by
  refine ⟨fun a b c s => ⟨fun h => ⟨_, exec_resetRelease a b c h, rfl, rfl, rfl, rfl, fun p => ?_, rfl⟩,
    exec_resetRelease_again a b c⟩, fun s p cause octets h => ?_⟩
  · cases p <;> rfl
  · have hline : ∀ f, Host.Outcome.next (φ := Fault) (ρ := Refusal) (onLine f s) = .next s :=
      fun f => congrArg Host.Outcome.next (onLine_held h f)
    exact ⟨hline _, hline _, hline _, hline _, hline _, hline _, hline _, hline _⟩

/-! ## The end of a frame on LDO (R158, R159) -/

section Sending
variable {ps : PortState}

theorem replySent_refusal {o : List Octet} (h : ps.sending = some ⟨.refusal, o⟩) :
    replySent ps = startSending { ps with sending := none, refusals := ps.refusals.tail } := by
  unfold replySent
  rw [h]

theorem replySent_reply {o : List Octet} (h : ps.sending = some ⟨.reply, o⟩) :
    replySent ps = startSending { ps with sending := none, places := ps.places.tail } := by
  unfold replySent
  rw [h]

theorem replySent_idle (h : ps.sending = none) : replySent ps = ps := by
  unfold replySent
  rw [h]

theorem startSending_busy {f : Sending} (h : ps.sending = some f) : startSending ps = ps := by
  unfold startSending
  rw [h]

theorem startSending_refusal {r : ReplyFrame} {rest : List ReplyFrame} (h : ps.sending = none)
    (hr : ps.refusals = r :: rest) : startSending ps = { ps with sending := some ⟨.refusal, replyLine r⟩ } := by
  unfold startSending
  rw [h]
  dsimp only
  rw [hr]

theorem startSending_reply {req : Request} {r : ReplyFrame} {rest : List Place} (h : ps.sending = none)
    (hr : ps.refusals = []) (hp : ps.places = ⟨req, .answered r⟩ :: rest) :
    startSending ps = { ps with sending := some ⟨.reply, replyLine r⟩ } := by
  unfold startSending
  rw [h]
  dsimp only
  rw [hr]
  dsimp only
  rw [hp]

theorem startSending_nothing (h : ps.sending = none) (hr : ps.refusals = []) (hp : headReply ps.places = none) :
    startSending ps = ps := by
  unfold startSending
  rw [h]
  dsimp only
  rw [hr]
  dsimp only
  split
  · next hl =>
    rw [hl] at hp
    cases hp
  · rfl

end Sending

/-- Settles O14: the cases of what is being sent, and those of what there is to send next. -/
theorem sentFrameMakesRoomForTheNext : Obligations.SentFrameMakesRoomForTheNext := by
  refine ⟨fun s p hheld => ?_, fun ps => ⟨fun f => startSending_busy, fun h =>
    ⟨fun r rest => startSending_refusal h, fun req r rest => startSending_reply h, startSending_nothing h⟩⟩⟩
  rw [exec_replySent p hheld]
  exact ⟨fun o h => congrArg Host.Outcome.next (modPort_congr (replySent_refusal h)),
    fun o h => congrArg Host.Outcome.next (modPort_congr (replySent_reply h)),
    fun h => congrArg Host.Outcome.next (modPort_self (replySent_idle h))⟩

/-! ## Set Window (R163) -/

section Window
variable {o : ByteOrder} {b : List Octet} (s : State)

theorem setWindowTake_refused (h : 2 < u8 b 0 ∨ u16 o b 3 ∉ windowSizes ∨ 1023 < u16 o b 1) :
    setWindowTake o b s = (.bare .badValue, s) := by
  unfold setWindowTake
  dsimp only
  split
  · rfl
  · next q hq =>
    refine if_neg fun ⟨hsize, hbase⟩ => ?_
    rcases h with h | h | h
    · rw [portOfNumber_eq_none h] at hq
      cases hq
    · exact h hsize
    · exact Nat.not_lt.2 h hbase

theorem setWindowTake_set {q : Port} (hq : u8 b 0 = portNumber q) (hsize : u16 o b 3 ∈ windowSizes)
    (hbase : u16 o b 1 < Config.stores) : setWindowTake o b s =
      (⟨.ok, [.o8 (portNumber q), .o16 (alignBase (u16 o b 1) (u16 o b 3)), .o16 (u16 o b 3)]⟩,
        s.modPort q fun ps => { ps with window := ⟨alignBase (u16 o b 1) (u16 o b 3), u16 o b 3⟩ }) := by
  unfold setWindowTake
  dsimp only
  rw [hq, portOfNumber_portNumber]
  exact if_pos ⟨hsize, hbase⟩

end Window

/-- Settles O32: the three checks, and the base cleared down to a multiple of a size that divides the stores. -/
theorem setWindowAlignsTheBase : Obligations.SetWindowAlignsTheBase := by
  intro s p r hhead
  dsimp only
  rw [← mem_windowSizes]
  refine ⟨fun hbad => congrArg Host.Outcome.next (serveOwner_eq hhead (setWindowTake_refused s hbad)),
    fun q hq hsize hbase => ?_⟩
  have hstore : u16 (s.port p).byteOrder r.body 1 < Config.stores := Nat.lt_succ_of_le hbase
  obtain ⟨hmultiple, hlow, hhigh, hinside⟩ := alignBase_bounds hsize hstore
  exact ⟨_, hmultiple, hlow, hhigh, hinside,
    congrArg Host.Outcome.next (serveOwner_eq hhead (setWindowTake_set s hq hsize hstore))⟩

/-! ## Set Port Options (R164) -/

theorem byteOrderOfNumber_byteOrderNumber (bo : ByteOrder) : byteOrderOfNumber (byteOrderNumber bo) = some bo := by
  cases bo <;> rfl

theorem byteOrderOfNumber_eq_none {n : Nat} (h : 1 < n) : byteOrderOfNumber n = none := by
  obtain ⟨m, rfl⟩ := Nat.exists_eq_add_of_le' h
  rfl

section Options
variable (p : Port) (o : ByteOrder) {b : List Octet} (s : State)

theorem setPortOptionsTake_refused (h : 1 < u8 b 0) : setPortOptionsTake p o b s = (.bare .badValue, s) := by
  unfold setPortOptionsTake
  rw [byteOrderOfNumber_eq_none h]
  rfl

theorem setPortOptionsTake_set {bo : ByteOrder} (h : u8 b 0 = byteOrderNumber bo) : setPortOptionsTake p o b s =
    (⟨if 1 ≤ u8 b 1 ∧ u8 b 1 ≤ 8 then .ok else .clamped,
        [.o8 (byteOrderNumber bo), .o8 (max 1 (min 8 (u8 b 1)))]⟩,
      s.modPort p fun ps => { ps with byteOrder := bo, quota := max 1 (min 8 (u8 b 1)) }) := by
  have hkept : max 1 (min 8 (u8 b 1)) = u8 b 1 ↔ 1 ≤ u8 b 1 ∧ u8 b 1 ≤ 8 := by omega
  unfold setPortOptionsTake
  rw [h, byteOrderOfNumber_byteOrderNumber]
  dsimp only
  rw [clampNat_eq_max_min (by decide), if_congr hkept rfl rfl]

end Options

/-- Settles O33: the byte order is refused or set, and the quota is brought into 1..8. -/
theorem portOptionsAreSet : Obligations.PortOptionsAreSet := fun s p _ hhead =>
  ⟨fun h => congrArg Host.Outcome.next (serveOwner_eq hhead (setPortOptionsTake_refused p _ s h)),
    fun _ h => congrArg Host.Outcome.next (serveOwner_eq hhead (setPortOptionsTake_set p _ s h))⟩

/-! ## Flags and attention (R165 to R167) -/

theorem modPort_frame (s : State) (p : Port) (f : PortState → PortState) :
    s.modPort p f = { s with ports := (s.modPort p f).ports } := by cases p <;> rfl

theorem get_raise (x : FlagSet) (f g : Flag) : (x.raise f).get g = (decide (g = f) || x.get g) := by
  cases f <;> cases g <;> rfl

theorem get_inter (x y : FlagSet) (f : Flag) : (x.inter y).get f = (x.get f && y.get f) := by cases f <;> rfl

theorem any_iff (x : FlagSet) : x.any = true ↔ ∃ f, x.get f = true := by
  constructor
  · intro h
    simp only [FlagSet.any, Bool.or_eq_true] at h
    obtain ((((h | h) | h) | h) | h) | h := h
    · exact ⟨.notice, h⟩
    · exact ⟨.high, h⟩
    · exact ⟨.owed, h⟩
    · exact ⟨.sweep, h⟩
    · exact ⟨.table, h⟩
    · exact ⟨.link, h⟩
  · rintro ⟨f, h⟩
    cases f <;> simp only [FlagSet.get] at h <;> simp [FlagSet.any, h]

theorem atnLow_iff (ps : PortState) : atnLow ps = true ↔ ∃ f, ps.flags.get f = true ∧ ps.enables.get f = true := by
  unfold atnLow shownFlags
  simp only [any_iff, get_inter, Bool.and_eq_true]

section Flags
variable {s : State} {p : Port} {r : Request}

theorem exec_readFlags (h : AtHead s p .readFlags r) : exec (.readFlags p) s = .next (s.answered p r
    ⟨.ok, [.o8 (shownFlags (s.port p)).number, .o8 (s.port p).enables.number, .o16 (s.port p).correctedHeaders,
      .o16 (s.port p).drops]⟩) := congrArg Host.Outcome.next (serveOwner_eq h rfl)

/-- A change of a port's flags or enables is answered with the flags as then shown (R166). -/
theorem changeFlags_eq (p : Port) (f : PortState → PortState) (s : State) :
    changeFlags p f s = (⟨.ok, [.o8 (shownFlags ((s.modPort p f).port p)).number]⟩, s.modPort p f) := by
  rw [port_modPort_same]
  rfl

theorem exec_clearFlags (h : AtHead s p .clearFlags r) :
    let t := s.modPort p fun ps => { ps with flags := ps.flags.diff (carriedFlags r.body) }
    exec (.clearFlags p) s = .next (t.answered p r ⟨.ok, [.o8 (shownFlags (t.port p)).number]⟩) :=
  congrArg Host.Outcome.next (serveOwner_eq h (changeFlags_eq p _ s))

theorem exec_setFlagEnables (h : AtHead s p .setFlagEnables r) :
    let t := s.modPort p fun ps => { ps with enables := carriedFlags r.body }
    exec (.setFlagEnables p) s = .next (t.answered p r ⟨.ok, [.o8 (shownFlags (t.port p)).number]⟩) :=
  congrArg Host.Outcome.next (serveOwner_eq h (changeFlags_eq p _ s))

end Flags

/-- Settles O34: each request of the flags, the frame of a port's update and of an event of all ports, and ATN. -/
theorem flagRequestsAndAttention : Obligations.FlagRequestsAndAttention := by
  refine ⟨fun s p f => ⟨modPort_frame s p f, fun q => port_modPort s p q f⟩,
    fun s p r => ⟨exec_readFlags, fun h => ⟨_, exec_clearFlags h, ?clear⟩, fun h => ⟨_, exec_setFlagEnables h, rfl⟩⟩,
    fun f s => ⟨rfl, fun p => ?raise⟩, fun ps => ⟨get_inter _ _, atnLow_iff ps, rfl⟩⟩
  case clear =>
    rw [port_modPort_same]
    exact ⟨modPort_congr rfl, rfl, rfl, rfl, rfl, rfl, rfl⟩
  case raise =>
    rw [port_raiseAll]
    exact ⟨rfl, get_raise _ f⟩

end Sys2Proof.Machine

namespace Sys2Proof.Machine

/-! ## The command at the front of the queue -/

/-- Settles O1: a queue that is not empty selects the second branch of `step`. -/
theorem stepTakesFrontCommand : Obligations.StepTakesFrontCommand := by
  intro c rest s hfront
  unfold step
  rw [hfront]

end Sys2Proof.Machine
